-- ==== Sys2Proof/Word.lean ====
section
/-! DEFINITION. The words of the FMSYN block (30_encoding.md R70 to R74, 20_memory.md R43, R44): the widths of the
two ports and of the fields a command carries. Only what the spec treats as bits is a bit vector. -/

namespace Sys2Proof

/-- A channel index 0 to 15 (R72). -/
abbrev Chan := BitVec 4

/-- A data byte: a 7-bit value 0 to 127 (R73). -/
abbrev Data7 := BitVec 7

/-- The play-time field `T` of a command-port word, Q32.32 (R71). -/
abbrev TimeField := BitVec 64

/-- One transaction on the command port, `T[63:0]` above `cmd[23:0]` (R70). -/
abbrev CommandWord := BitVec 88

/-- One write on the patch port (R43). -/
abbrev PatchWord := BitVec 104

/-- A packed patch record (R44). -/
abbrev RecordWord := BitVec 88

/-- A byte of the bank file (R47). -/
abbrev FileByte := BitVec 8

/-- A word on one of the block's two ports (R70, R43). -/
inductive PortWord where
  /-- A command-port transaction. -/
  | command (w : CommandWord)
  /-- A patch-port write. -/
  | patch (w : PatchWord)
deriving DecidableEq, Repr

end Sys2Proof
end

