-- ==== Sys2Proof/Syntax.lean ====
section
/-! DEFINITION. The commands of the block: one constructor of `Instr` per row of spec/opcode_table.json, and the
patch record that PATCH_WR carries (10_state.md R17, R18). A constructor keeps every bit its word carries, the bits
the command ignores too, so that a word and its instruction determine one another. -/

namespace Sys2Proof

/-- How the two operators of a patch are connected: the bit `ALG` (R18). -/
inductive Algorithm where
  /-- `ALG = 0`: the modulator drives the carrier's frequency (R224). -/
  | fm
  /-- `ALG = 1`: the modulator is summed into the output (R225). -/
  | additive
deriving DecidableEq, Repr, Inhabited

/-- The parameter record of one operator (R17). -/
structure Operator where
  /-- `AM`, amplitude-modulation flag. -/
  am : Bool
  /-- `VIB`, vibrato flag. -/
  vib : Bool
  /-- `EGT`, envelope-sustain flag (true: sustain enabled). -/
  egt : Bool
  /-- `KSR`, key-scale-rate flag. -/
  ksr : Bool
  /-- `MULT`, frequency multiplier. -/
  mult : BitVec 4
  /-- `KSL`, key-scale-level field. -/
  ksl : BitVec 2
  /-- `TL`, total level. -/
  tl : BitVec 6
  /-- `AR`, attack rate. -/
  ar : BitVec 4
  /-- `DR`, decay rate. -/
  dr : BitVec 4
  /-- `SL`, sustain level. -/
  sl : BitVec 4
  /-- `RR`, release rate. -/
  rr : BitVec 4
  /-- `WS`, waveform id. -/
  ws : BitVec 2
deriving DecidableEq, Repr, Inhabited

/-- A patch: two operators, the modulator's feedback `FB` and the algorithm bit `ALG` (R18). -/
structure Patch where
  m : Operator
  c : Operator
  fb : BitVec 3
  alg : Algorithm
deriving DecidableEq, Repr, Inhabited

/-- The two patch overlays a patch-port word can address (R43 bit 103). -/
inductive Space where
  /-- `PM_MEL`. -/
  | melodic
  /-- `PM_PERC`. -/
  | percussion
deriving DecidableEq, Repr

/-- The commands of the command port and the write of the patch port (R75, R78, R92). `t` is the play-time field;
a command that ignores it (R93) still carries it. -/
inductive Instr where
  /-- NOTE_OFF (R76); `d2` is the ignored release velocity. -/
  | noteOff (ch : Chan) (note d2 : Data7) (t : TimeField)
  /-- NOTE_ON (R77). -/
  | noteOn (ch : Chan) (note vel : Data7) (t : TimeField)
  /-- CC_VOLUME, controller 7 (R78). -/
  | ccVolume (ch : Chan) (val : Data7) (t : TimeField)
  /-- CC_PAN, controller 10 (R78). -/
  | ccPan (ch : Chan) (val : Data7) (t : TimeField)
  /-- CC_EXPR, controller 11 (R78). -/
  | ccExpr (ch : Chan) (val : Data7) (t : TimeField)
  /-- CC_RESET, controller 121 (R78); `val` is ignored. -/
  | ccReset (ch : Chan) (val : Data7) (t : TimeField)
  /-- CC_LOOP_START, controller 110 (R78). -/
  | ccLoopStart (ch : Chan) (val : Data7) (t : TimeField)
  /-- CC_LOOP_END, controller 111 (R78). -/
  | ccLoopEnd (ch : Chan) (val : Data7) (t : TimeField)
  /-- CC_OTHER, every other controller (R78); well-formed only if `cc` is none of the six above. -/
  | ccOther (ch : Chan) (cc val : Data7) (t : TimeField)
  /-- PROG_CHANGE (R79); all 8 bits of `d2` are ignored. -/
  | progChange (ch : Chan) (prog : Data7) (d2 : BitVec 8) (t : TimeField)
  /-- PITCH_BEND (R80). -/
  | pitchBend (ch : Chan) (lsb msb : Data7) (t : TimeField)
  /-- ALL_STOP (R81). -/
  | allStop (t : TimeField)
  /-- CH_RESET (R82). -/
  | chReset (t : TimeField)
  /-- MVOL (R83). -/
  | mvol (vol16 : BitVec 16) (t : TimeField)
  /-- DEV_ATTACH (R84). -/
  | devAttach (handle : BitVec 16) (t : TimeField)
  /-- BANK_CLR (R85). -/
  | bankClr (mel perc : Bool) (t : TimeField)
  /-- PATCH_WR, the patch-port write (R43, R92). -/
  | patchWr (space : Space) (idx : Data7) (valid : Bool) (patch : Patch)
deriving DecidableEq, Repr

end Sys2Proof
end

