-- ==== Sys2Proof/WellFormed.lean ====
section
/-! DEFINITION. Which terms of `Instr` are instructions of the block. Every field's range is its width, so the one
check is that CC_OTHER does not name a controller that has a row of its own (30_encoding.md R78, R89). -/

namespace Sys2Proof

/-- The six controllers with a row of their own in the table of R78. -/
def specificControllers : List Data7 := [7#7, 10#7, 11#7, 121#7, 110#7, 111#7]

/-- Well-formed instructions: CC_OTHER takes "any other 0 to 127" (R78). -/
def Instr.wellFormed : Instr → Bool
  | .ccOther _ cc _ _ => !specificControllers.contains cc
  | _ => true

end Sys2Proof
end

