-- ==== Sys2Proof/Decode.lean ====
section
/-! DEFINITION. Decoding of the two ports, total on every word (30_encoding.md R70 to R89, 20_memory.md R43 to R45),
and after it the encoder, written from the same tables. A reserved word (R86) is rejected by name. -/

namespace Sys2Proof

/-- Why a word is a reserved encoding: the clauses of R86. -/
inductive Reserved where
  /-- R86 (a): the opcode names no command. -/
  | opcode (op : BitVec 4)
  /-- R86 (b): bit 7 of a data byte is set. -/
  | dataByte
  /-- R86 (c): a must-be-0 bit of a Format S command is set. -/
  | systemBits
  /-- R86 (d): a must-be-0 bit of a patch-port word is set. -/
  | patchBits
deriving DecidableEq, Repr

/-! ## Fields of a command word -/

/-- The fields of a command-port word (R70, R72): `T`, `op`, `ch`, `d1`, `d2`. In Format S (R74) `ch` is the zero
field and `{d1, d2}` is `imm16`. -/
structure CommandFields where
  t : TimeField
  op : BitVec 4
  ch : Chan
  d1 : BitVec 8
  d2 : BitVec 8
deriving DecidableEq, Repr

/-- Field extraction (R70, R72). -/
def splitCommand (w : CommandWord) : CommandFields where
  t := w.extractLsb' 24 64
  op := w.extractLsb' 20 4
  ch := w.extractLsb' 16 4
  d1 := w.extractLsb' 8 8
  d2 := w.extractLsb' 0 8

/-- The word with the given fields (R70, R72). -/
def joinCommand (f : CommandFields) : CommandWord :=
  f.t ++ f.op ++ f.ch ++ f.d1 ++ f.d2

/-- The low seven bits of a byte (R73). -/
def low7 (b : BitVec 8) : Data7 := b.extractLsb' 0 7

/-- A data byte in its 8-bit field: bit 7 is 0 (R73). -/
def byteOf (d : Data7) : BitVec 8 := 0#1 ++ d

/-- A Format E command that reads both data bytes (R73, R86 b). -/
def withData (f : CommandFields) (k : Data7 → Data7 → Instr) : Except Reserved Instr :=
  if f.d1.getLsbD 7 || f.d2.getLsbD 7 then .error .dataByte else .ok (k (low7 f.d1) (low7 f.d2))

/-- A Format S command, legal where its must-be-0 bits are 0 (R74, R86 c). -/
def withZeros (zeros : Bool) (i : Instr) : Except Reserved Instr :=
  if zeros then .ok i else .error .systemBits

/-- The sub-command of CTRL_CHANGE: the most specific row of R78 (R89). -/
def decodeController (ch : Chan) (t : TimeField) (cc val : Data7) : Instr :=
  if cc = 7#7 then .ccVolume ch val t
  else if cc = 10#7 then .ccPan ch val t
  else if cc = 11#7 then .ccExpr ch val t
  else if cc = 121#7 then .ccReset ch val t
  else if cc = 110#7 then .ccLoopStart ch val t
  else if cc = 111#7 then .ccLoopEnd ch val t
  else .ccOther ch cc val t

/-- The command with these fields, or the reason there is none (R75 to R86). -/
def decodeFields (f : CommandFields) : Except Reserved Instr :=
  match f.op.toNat with
  | 0x1 => withZeros (f.ch == 0#4 && f.d1 == 0#8 && f.d2 == 0#8) (.allStop f.t)
  | 0x2 => withZeros (f.ch == 0#4 && f.d1 == 0#8 && f.d2 == 0#8) (.chReset f.t)
  | 0x3 => withZeros (f.ch == 0#4) (.mvol (f.d1 ++ f.d2) f.t)
  | 0x4 => withZeros (f.ch == 0#4) (.devAttach (f.d1 ++ f.d2) f.t)
  | 0x5 => withZeros (f.ch == 0#4 && f.d1 == 0#8 && f.d2.extractLsb' 2 6 == 0#6)
      (.bankClr (f.d2.getLsbD 0) (f.d2.getLsbD 1) f.t)
  | 0x8 => withData f fun note d2 => .noteOff f.ch note d2 f.t
  | 0x9 => withData f fun note vel => .noteOn f.ch note vel f.t
  | 0xB => withData f fun cc val => decodeController f.ch f.t cc val
  | 0xC => if f.d1.getLsbD 7 then .error .dataByte else .ok (.progChange f.ch (low7 f.d1) f.d2 f.t)
  | 0xE => withData f fun lsb msb => .pitchBend f.ch lsb msb f.t
  | _ => .error (.opcode f.op)

/-- Decoding of a command-port word (R89). -/
def decodeCommand (w : CommandWord) : Except Reserved Instr := decodeFields (splitCommand w)

/-! ## Patch records -/

/-- The bit that selects the algorithm (R44 byte B10 bit 0). -/
def algorithmOf (b : Bool) : Algorithm := if b then .additive else .fm

/-- The bit of an algorithm (R44 byte B10 bit 0). -/
def algorithmBit : Algorithm → Bool
  | .fm => false
  | .additive => true

/-- The operator in five record bytes, the first in the low bits (R44: B0 to B4, B5 to B9). -/
def unpackOperator (w : BitVec 40) : Operator where
  am := w.getLsbD 7
  vib := w.getLsbD 6
  egt := w.getLsbD 5
  ksr := w.getLsbD 4
  mult := w.extractLsb' 0 4
  ksl := w.extractLsb' 14 2
  tl := w.extractLsb' 8 6
  ar := w.extractLsb' 20 4
  dr := w.extractLsb' 16 4
  sl := w.extractLsb' 28 4
  rr := w.extractLsb' 24 4
  ws := w.extractLsb' 32 2

/-- The five record bytes of an operator (R44). -/
def packOperator (o : Operator) : BitVec 40 :=
  0#6 ++ o.ws ++ o.sl ++ o.rr ++ o.ar ++ o.dr ++ o.ksl ++ o.tl ++
    BitVec.ofBool o.am ++ BitVec.ofBool o.vib ++ BitVec.ofBool o.egt ++ BitVec.ofBool o.ksr ++ o.mult

/-- `unpack` (R45): the patch in a record. -/
def unpack (r : RecordWord) : Patch where
  m := unpackOperator (r.extractLsb' 0 40)
  c := unpackOperator (r.extractLsb' 40 40)
  fb := r.extractLsb' 81 3
  alg := algorithmOf (r.getLsbD 80)

/-- `pack` (R45): the record of a patch, every must-be-0 bit 0. -/
def pack (p : Patch) : RecordWord :=
  0#4 ++ p.fb ++ BitVec.ofBool (algorithmBit p.alg) ++ packOperator p.c ++ packOperator p.m

/-- Whether every must-be-0 bit of a record is 0 (R44: B4 and B9 bits 7:2, B10 bits 7:4). -/
def recordZeros (r : RecordWord) : Bool :=
  r.extractLsb' 34 6 == 0#6 && r.extractLsb' 74 6 == 0#6 && r.extractLsb' 84 4 == 0#4

/-- The space a patch-port word addresses (R43 bit 103). -/
def spaceOf (b : Bool) : Space := if b then .percussion else .melodic

/-- The bit of a space (R43 bit 103). -/
def spaceBit : Space → Bool
  | .melodic => false
  | .percussion => true

/-- Decoding of a patch-port word (R43, R86 d). -/
def decodePatch (w : PatchWord) : Except Reserved Instr :=
  if w.extractLsb' 88 7 == 0#7 && recordZeros (w.extractLsb' 0 88) then
    .ok (.patchWr (spaceOf (w.getLsbD 103)) (w.extractLsb' 96 7) (w.getLsbD 95) (unpack (w.extractLsb' 0 88)))
  else .error .patchBits

/-- Decoding of a word on either port. -/
def decode : PortWord → Except Reserved Instr
  | .command w => decodeCommand w
  | .patch w => decodePatch w

/-! ## The encoder -/

/-- A Format E word (R72). -/
def eventWord (t : TimeField) (op : BitVec 4) (ch : Chan) (d1 d2 : BitVec 8) : PortWord :=
  .command (joinCommand { t := t, op := op, ch := ch, d1 := d1, d2 := d2 })

/-- A Format S word (R74). -/
def systemWord (t : TimeField) (op : BitVec 4) (imm16 : BitVec 16) : PortWord :=
  .command (joinCommand { t := t, op := op, ch := 0#4, d1 := imm16.extractLsb' 8 8, d2 := imm16.extractLsb' 0 8 })

/-- A patch-port word (R43). -/
def patchWord (space : Space) (idx : Data7) (valid : Bool) (r : RecordWord) : PortWord :=
  .patch (BitVec.ofBool (spaceBit space) ++ idx ++ BitVec.ofBool valid ++ 0#7 ++ r)

/-- The word that spells an instruction (R76 to R85, R43). -/
def encode : Instr → PortWord
  | .noteOff ch note d2 t => eventWord t 0x8#4 ch (byteOf note) (byteOf d2)
  | .noteOn ch note vel t => eventWord t 0x9#4 ch (byteOf note) (byteOf vel)
  | .ccVolume ch val t => eventWord t 0xB#4 ch (byteOf 7#7) (byteOf val)
  | .ccPan ch val t => eventWord t 0xB#4 ch (byteOf 10#7) (byteOf val)
  | .ccExpr ch val t => eventWord t 0xB#4 ch (byteOf 11#7) (byteOf val)
  | .ccReset ch val t => eventWord t 0xB#4 ch (byteOf 121#7) (byteOf val)
  | .ccLoopStart ch val t => eventWord t 0xB#4 ch (byteOf 110#7) (byteOf val)
  | .ccLoopEnd ch val t => eventWord t 0xB#4 ch (byteOf 111#7) (byteOf val)
  | .ccOther ch cc val t => eventWord t 0xB#4 ch (byteOf cc) (byteOf val)
  | .progChange ch prog d2 t => eventWord t 0xC#4 ch (byteOf prog) d2
  | .pitchBend ch lsb msb t => eventWord t 0xE#4 ch (byteOf lsb) (byteOf msb)
  | .allStop t => systemWord t 0x1#4 0#16
  | .chReset t => systemWord t 0x2#4 0#16
  | .mvol vol16 t => systemWord t 0x3#4 vol16
  | .devAttach handle t => systemWord t 0x4#4 handle
  | .bankClr mel perc t => systemWord t 0x5#4 (0#14 ++ BitVec.ofBool perc ++ BitVec.ofBool mel)
  | .patchWr space idx valid patch => patchWord space idx valid (pack patch)

/-! ## The host's fixed name -/

/-- The port word whose bits are `w` for a table row of `nbits` bits: the rows of 24 bits stand on the command port
with a play-time field of zeros, the row of 104 bits on the patch port (spec/opcode_table.json). -/
def tableWord (nbits w : Nat) : PortWord :=
  if nbits ≤ 88 then .command (BitVec.ofNat 88 w) else .patch (BitVec.ofNat 104 w)

/-- The instruction the decoder reads from the bits of a table row, none where it refuses. -/
def decodeTableWord (nbits w : Nat) : Option Instr :=
  match decode (tableWord nbits w) with
  | .ok i => some i
  | .error _ => none

end Sys2Proof
end

