-- ==== Sys2Proof/Config.lean ====
section
/-! DEFINITION. What an implementation fixes: the parameters of 00_scope.md R5. A parameter R5 marks OPEN or U6
lists, with a suggested value, is a field of `Params` (State carries the record; no step writes it). `ENV_K`, any real
number, and the functions `FM_DEPTH` and `PAN_LAW` are uninterpreted symbols of Machine/Term.lean. A parameter without
any value in the spec is an opaque constant here. The constants with a value in the spec are plain definitions. -/

namespace Sys2Proof

/-- One channel register of the channel state table (R11): program, volume, pan, expression, pitch-bend in cents. -/
structure Channel where
  prog : Data7
  vol : Data7
  pan : Data7
  expr : Data7
  bend : Rat
deriving DecidableEq, Repr, Inhabited

/-- The parameters of R5 and U6 that have a value or a suggested value, but for `ENV_K` and `PAN_LAW`, which are symbols
of Machine/Term.lean. DESIGN CHOICE: the real-valued ones are rationals (log 4). -/
structure Params where
  /-- `FS`, sample rate in Hz. -/
  fs : Rat
  /-- `HARD_STOP_S`, hard-stop fade in seconds. -/
  hardStopS : Rat
  /-- `STOP_MARGIN_S`, extra time after the release tail in seconds. -/
  stopMarginS : Rat
  /-- `KSL_REF_NOTE`, reference note of key-scale level. -/
  kslRefNote : Nat
  /-- `PB_RANGE_CENTS`, pitch-bend range each side. -/
  pbRangeCents : Rat
  /-- `PERC_CH`, percussion channel index. -/
  percCh : Chan
  /-- `CH_RESET_VALUES`, channel reset record. -/
  chReset : Channel
  /-- `WT_N`, samples per waveform table. -/
  wtN : Nat
  /-- `WT_PRIME`, priming cycles of the feedback build. -/
  wtPrime : Nat
  /-- `MAX_WRAPS`, host loop wraps per pump. -/
  maxWraps : Nat
  /-- `PUMP_PERIOD_S`, host pump period in seconds. -/
  pumpPeriodS : Rat
  /-- `LEAD_S`, host anchor lead in seconds (U6). -/
  leadS : Rat
  /-- `LOOKAHEAD_S`, host lookahead window in seconds (U6). -/
  lookaheadS : Rat
  /-- `VIB_HZ`, vibrato rate (U6, R222). -/
  vibHz : Rat
  /-- `VIB_CENTS`, vibrato depth (U6, R222). -/
  vibCents : Rat
  /-- `AM_HZ`, amplitude-modulation rate (U6, R235). -/
  amHz : Rat
  /-- `AM_DEPTH`, amplitude-modulation depth (U6, R235). -/
  amDepth : Rat
deriving DecidableEq, Repr

/-- What an entry of a bank is for (R49): the melodic entry of a program, or the percussion entry of its tag. -/
inductive BankTarget where
  | melodic (program : Data7)
  | percussion
deriving DecidableEq, Repr

/-- The ranges R5 gives the parameters: `FS` positive, `WT_N` positive and even, `PUMP_PERIOD_S` below 0.1; the two fade
times, the lead and the window are durations. -/
abbrev Params.wf (p : Params) : Prop :=
  0 < p.fs ∧ 0 < p.hardStopS ∧ 0 ≤ p.stopMarginS ∧ 0 < p.wtN ∧ p.wtN % 2 = 0 ∧ 0 < p.pumpPeriodS ∧
    p.pumpPeriodS < 1 / 10 ∧ 0 ≤ p.leadS ∧ 0 ≤ p.lookaheadS

namespace Config

/-- The values and suggested values of R5. The suggested ones are the spec's own choice; statements hold for every value
(log 3). -/
def suggested : Params where
  fs := 48000
  hardStopS := 5 / 1000
  stopMarginS := 5 / 100
  kslRefNote := 36
  pbRangeCents := 200
  percCh := 9#4
  chReset := { prog := 0#7, vol := 100#7, pan := 64#7, expr := 127#7, bend := 0 }
  wtN := 1024
  wtPrime := 4
  maxWraps := 4
  pumpPeriodS := 5 / 100
  leadS := 1 / 10
  lookaheadS := 2
  vibHz := 61 / 10
  vibCents := 7
  amHz := 37 / 10
  amDepth := 6 / 100

/-- `N_VOICE`, registry capacity (R5, R21). -/
def voiceLimit : Nat := 9

/-- `FLOOR`, near-silence floor (R5, R233). -/
def floorLevel : Rat := 2 / 100000

/-- `KSR_REF_NOTE`, reference note of key-scale rate (R5, R129). -/
def ksrRefNote : Nat := 36

/-- `BUILTIN_MEL`: the built-in entry of a program, or absent (R42). Its contents are in no source: opaque (log 5). -/
opaque builtinMel : Data7 → Option Patch

/-- `GENERIC_PATCH` (R42). Its contents are in no source: opaque (log 5). -/
opaque genericPatch : Patch

/-- The six ASCII characters of the bank file's signature (R47), not in the source: opaque (log 21). -/
opaque bankSignature : Vector FileByte 6

/-- Whether a bank file has the optional 2-byte pad (R47): the test is not in the source: opaque (log 21). -/
opaque bankHasPad : List FileByte → Bool

/-- The patch a 30-byte instrument record packs (R47): bit offsets not in the source: opaque (log 21). -/
opaque bankRecord : List FileByte → Patch

/-- What the `entry`-th entry of a bank's names table is for, or none where it is not usable (R49): not in the source:
opaque, a function of the whole bank and the position (log 21). -/
opaque bankTarget : (bank : List FileByte) → (entry : Nat) → Option BankTarget

/-- The `T` field a host writes for a play-time below 0, which the field cannot hold: not in the spec: opaque, a free
value (log 19). -/
opaque freeTimeField : Rat → TimeField

/-- Whether `round` (R91, R300) takes a value half way between `k` and `k + 1` up: not in the spec: opaque
(log 20). -/
opaque roundTieUp : Nat → Bool

end Config

end Sys2Proof
end

