-- ==== Sys2Proof/Machine/Term.lean ====
section
/-! DEFINITION. Exact real numbers as plain data. "Every level, time, frequency and phase in the rules is an exact
real number" (00_scope.md R7): a real value of the state is the closed formula the rule gives for it, so no digit is
lost and two states can be compared. What a formula denotes is `RTerm.evalIn` of Machine/Numerics.lean, over the
reals or over any numerics configuration (R132). DEDUCED (log 1). -/

namespace Sys2Proof.Machine

/-- A closed formula for a real number. `wave` stands for the waveform lookup of R151; `envK`, `fmDepth`,
`panL` and `panR` for three parameters of R5 that the spec leaves open, the real `ENV_K` (log 4) and the functions
`FM_DEPTH` and `PAN_LAW` (log 6, log 7). A formula has one operator per operator that the rule writes (R132). -/
inductive RTerm where
  /-- A rational constant. -/
  | rat (q : Rat)
  /-- The number π. -/
  | pi
  | add (a b : RTerm)
  | sub (a b : RTerm)
  /-- `-a`. -/
  | neg (a : RTerm)
  | mul (a b : RTerm)
  | div (a b : RTerm)
  /-- `max(a, b)`. -/
  | max (a b : RTerm)
  /-- `2^a`. -/
  | pow2 (a : RTerm)
  /-- `10^a`. -/
  | pow10 (a : RTerm)
  /-- `e^a`. -/
  | exp (a : RTerm)
  /-- `sin a`, `a` in radians. -/
  | sin (a : RTerm)
  /-- `wave(s, fb, ph)` for tables of `wtN` samples built with `wtPrime` priming cycles (R151). -/
  | wave (wtN wtPrime : Nat) (s : BitVec 2) (fb : BitVec 3) (ph : RTerm)
  /-- `ENV_K` (R230). -/
  | envK
  /-- `FM_DEPTH(f_mod, f_car)` (R224). -/
  | fmDepth (fMod fCar : RTerm)
  /-- The left gain of `PAN_LAW(pan)` (R190). -/
  | panL (pan : Data7)
  /-- The right gain of `PAN_LAW(pan)` (R190). -/
  | panR (pan : Data7)
deriving DecidableEq, Repr

/-- A duration after key-scaling: `coef / 2^(k/24)` seconds (R129, R130), `k` the key-scale exponent in 24ths of an
octave step. Exact, so that times can be compared (log 2). -/
structure Dur where
  coef : Rat
  k : Nat
deriving DecidableEq, Repr

/-- A device-clock time `base + dur` in seconds: the form of every stop time (R186, R191, R193). -/
structure Moment where
  base : Rat
  dur : Dur
deriving DecidableEq, Repr

end Sys2Proof.Machine
end

