-- ==== Sys2Proof/Machine/Scaled.lean ====
section
/-! DEFINITION. Exact arithmetic and comparison of durations and stop times. A duration is a rational over a 24th
power of two (R129, R130), so the comparisons of R183, R186, R191, R193, R221 and R230 are decided by comparing
24th powers of rationals: nothing is rounded. DEDUCED (log 2). -/

namespace Sys2Proof.Machine

/-- The duration of a rational number of seconds. -/
def Dur.ofRat (q : Rat) : Dur := { coef := q, k := 0 }

/-- `x ≤ y`, exactly: both sides to the 24th power, by the signs of the coefficients. -/
def Dur.le (x y : Dur) : Bool :=
  if x.coef ≤ 0 then
    decide (0 ≤ y.coef) || decide ((-y.coef) ^ 24 * 2 ^ x.k ≤ (-x.coef) ^ 24 * 2 ^ y.k)
  else
    decide (0 ≤ y.coef) && decide (x.coef ^ 24 * 2 ^ y.k ≤ y.coef ^ 24 * 2 ^ x.k)

/-- The larger of two durations. -/
def Dur.max (x y : Dur) : Dur := if x.le y then y else x

/-- `x + y` for durations of one operator, which share their key-scale exponent (R130). -/
def Dur.addSame (x y : Dur) : Dur := { coef := x.coef + y.coef, k := x.k }

/-- The formula `coef / 2^(k/24)` (R129, R130). -/
def Dur.term (x : Dur) : RTerm := .div (.rat x.coef) (.pow2 (.div (.rat x.k) (.rat 24)))

/-- The device-clock time of a rational number of seconds. -/
def Moment.ofRat (q : Rat) : Moment := { base := q, dur := Dur.ofRat 0 }

/-- Whether a stop time is at or before a rational time, exactly. -/
def Moment.atOrBefore (m : Moment) (t : Rat) : Bool := m.dur.le (Dur.ofRat (t - m.base))

/-- The formula of a stop time. -/
def Moment.term (m : Moment) : RTerm := .add (.rat m.base) m.dur.term

/-- Whether an optional stop time is set and at or before `t` (R183, R186). -/
def stoppedBy (stop : Option Moment) (t : Rat) : Bool :=
  match stop with
  | none => false
  | some m => m.atOrBefore t

end Sys2Proof.Machine
end

