-- ==== Sys2Proof/Machine/State.lean ====
section
/-! DEFINITION. The machine's state as plain data: the tuple of 10_state.md R10, the output latch, the host of
47_host_scheduler.md R281, the parameters of 00_scope.md R5 and the inputs still to come; the two reason types of a
step; the state after reset (R27, R350). -/

namespace Sys2Proof.Machine

/-! ## Voices (R19, R20) -/

/-- Voice identity: (channel, note) (R19). -/
structure Key where
  ch : Chan
  note : Data7
deriving DecidableEq, Repr

/-- OpRun: what the Note Engine derives for one operator at note-on (R20). -/
structure OpRun where
  /-- `f`, base frequency in Hz (R187). -/
  f : RTerm
  /-- `ws`, waveform id. -/
  ws : BitVec 2
  /-- `fb`, feedback: the patch's for the modulator, 0 for the carrier. -/
  fb : BitVec 3
  /-- `L`, peak level (R188). -/
  level : RTerm
  /-- `S`, sustain fraction (R124). -/
  sustain : RTerm
  /-- `A`, attack seconds after key-scaling (R130). -/
  attack : Dur
  /-- `D`, decay seconds after key-scaling (R130). -/
  decay : Dur
  /-- `R`, release seconds after key-scaling (R130). -/
  release : Dur
  egt : Bool
  am : Bool
  vib : Bool
deriving DecidableEq, Repr

/-- A voice record (R19). -/
structure Voice where
  key : Key
  /-- `T0`, start time. -/
  t0 : Rat
  alg : Algorithm
  opM : OpRun
  opC : OpRun
  /-- Detune breakpoints (time, cents) (R172, R189). -/
  bend : List (Rat × Rat)
  gL : RTerm
  gR : RTerm
  /-- Start of the release ramp (R193). -/
  rel : Option Rat
  /-- Start of the hard-stop fade (R186). -/
  hs : Option Rat
  /-- Time at which both oscillators stop (R186, R191, R193). -/
  stop : Option Moment
  /-- `ph[M]`, modulator phase in cycles (R226). -/
  phM : RTerm
  /-- `ph[C]`, carrier phase in cycles (R226). -/
  phC : RTerm
deriving DecidableEq, Repr

/-! ## Memories (R40, R41, R24) -/

/-- An entry of `PM_MEL` or `PM_PERC`: `{valid, rec}` (R41). -/
structure PatchEntry where
  valid : Bool
  patch : Patch
deriving DecidableEq, Repr

/-- What an index that nothing has written reads as: an invalid entry, its unspecified `rec` (R27, U5) the all-zero
patch. DESIGN CHOICE (log 8); no rule reads the `rec` of an invalid entry. -/
def PatchEntry.unlisted : PatchEntry := { valid := false, patch := unpack 0#88 }

/-- A patch overlay: (index, entry) pairs in the canonical form of `Memory.wf` (Machine/Ops.lean). -/
abbrev Memory := List (Nat × PatchEntry)

/-- A key of the waveform cache: (DEV, s, fb) (R24). The table at a key is a function of the key (R152), so the keys
are the cache (log 10). -/
structure WtKey where
  dev : BitVec 16
  shape : BitVec 2
  fb : BitVec 3
deriving DecidableEq, Repr

/-! ## The host (R58, R281) -/

/-- The five event types (R58). -/
inductive EventKind where
  | noteOff | noteOn | controlChange | programChange | pitchBend
deriving DecidableEq, Repr

/-- An event of the song: "{time, type, channel, two data bytes}" (R58). DESIGN CHOICE: the time is a rational number of
seconds (log 4). -/
structure Event where
  time : Rat
  kind : EventKind
  ch : Chan
  d1 : BitVec 8
  d2 : BitVec 8
deriving DecidableEq, Repr

/-- The host's modes (R281, R282). -/
inductive Mode where
  | stopped | playing | paused
deriving DecidableEq, Repr

/-- The Playback Scheduler's state (R281). -/
structure Scheduler where
  mode : Mode
  seq : List Event
  looping : Bool
  total : Rat
  loopStart : Rat
  loopEnd : Rat
  loopStartIdx : Nat
  loopEndIdx : Nat
  loopDur : Rat
  anchor : Rat
  cursor : Nat
  pausedElapsed : Rat
  /-- The pump timer: none when cancelled, else the device-clock time of its next firing (R288; log 17). -/
  timer : Option Rat
deriving DecidableEq, Repr

/-- A call of the control surface, of the bank loader, or of the scheduler's `tick` (R91, R280). DESIGN CHOICE: the volume
`x` is a rational number (log 4). -/
inductive HostCall where
  | play (seq : List Event) (loop : Bool)
  | pause
  | resume
  | stop
  | setMasterVolume (x : Rat)
  | loadBank (bytes : List FileByte)
  | tick
deriving DecidableEq, Repr

/-- What the outside world can do to the system. -/
inductive Input where
  /-- A word on a port of the block, from any host: "a model of the block may take any sequence of commands as input"
  (47_host_scheduler.md, opening). -/
  | word (w : PortWord)
  /-- A call of the host of 47_host_scheduler.md. -/
  | call (c : HostCall)
  /-- Reset (R350, R351). -/
  | reset
deriving DecidableEq, Repr

/-! ## The state -/

/-- The state of the system (R10, R281). -/
structure State where
  /-- The parameters of R5; no step writes them (log 3). -/
  par : Params
  /-- `clk_n`, the sample counter (R14). -/
  clkN : Nat
  /-- `MVOL`, master volume (R15). -/
  mvol : Rat
  /-- `DEV`, device handle (R16). -/
  dev : BitVec 16
  /-- `CH[0..15]`, the channel state table (R11). -/
  ch : Vector Channel 16
  /-- `PM_MEL` (R40 a). -/
  pmMel : Memory
  /-- `PM_PERC` (R40 b). -/
  pmPerc : Memory
  /-- `VT`, the voice registry, oldest first (R21). -/
  vt : List Voice
  /-- `TAILS` (R22). -/
  tails : List Voice
  /-- `WTC`, the keys of the waveform cache (R24). -/
  wtc : List WtKey
  /-- The left output sample emitted last (R220). -/
  outL : RTerm
  /-- The right output sample emitted last (R220). -/
  outR : RTerm
  /-- The host (R281). -/
  sched : Scheduler
  /-- Words that have arrived on the ports and wait for the command agent, oldest first (R13, R54). -/
  port : List PortWord
  /-- Inputs still to come, each with the `clk_n` from which it is due, in order of arrival (log 15). -/
  env : List (Nat × Input)
deriving DecidableEq, Repr

/-! ## How a step can stop -/

/-- Faults: none. "The block raises no exception, takes no trap and has no fault state" (R320). -/
inductive Fault where
deriving DecidableEq, Repr

/-- Refusals: runs the spec gives no meaning. Each is safe: the model stops where the hardware might go on. -/
inductive Refusal where
  /-- Raised by `exec` for an instruction that has no meaning yet. Safe. -/
  | notModelled (mnemonic : String)
  /-- Raised by `step` for a reserved encoding: "a model refuses a run that issues one" (R86, U1). Safe. -/
  | reserved (why : Reserved)
  /-- Raised by PATCH_WR while a voice is unfinished: "a model refuses a run that breaks this" (R362, U2). Safe. -/
  | patchWriteWhileUnfinished
  /-- Raised by BANK_CLR while a voice is unfinished (R56, R265, R362, U2). Safe. -/
  | bankClearWhileUnfinished
  /-- Raised by DEV_ATTACH to a different handle while a voice is unfinished: "a model refuses otherwise" (R363, U3).
  Safe. -/
  | deviceChangeWhileUnfinished
  /-- Raised by the host for a play-time of 2^32 seconds or more: "a `T` beyond the field cannot be encoded, so it cannot
  be issued" (U4; log 19). Safe. -/
  | playTimeOutOfField
deriving DecidableEq, Repr

/-! ## Reset -/

/-- The host after reset: Stopped (R27); the other fields DESIGN CHOICE (log 18). -/
def Scheduler.reset : Scheduler where
  mode := .stopped
  seq := []
  looping := false
  total := 0
  loopStart := 0
  loopEnd := 0
  loopStartIdx := 0
  loopEndIdx := 0
  loopDur := 0
  anchor := 0
  cursor := 0
  pausedElapsed := 0
  timer := none

/-- Every piece of state at its reset value, under given parameters (R27, R350). -/
def State.resetWith (p : Params) : State where
  par := p
  clkN := 0
  mvol := 1
  dev := 0#16
  ch := Vector.replicate 16 p.chReset
  pmMel := []
  pmPerc := []
  vt := []
  tails := []
  wtc := []
  outL := .rat 0
  outR := .rat 0
  sched := Scheduler.reset
  port := []
  env := []

/-- The machine right after reset, with the suggested parameters of R5 (log 3). -/
def State.reset : State := State.resetWith Config.suggested

end Sys2Proof.Machine
end

