-- ==== Sys2Proof/Machine/Operands.lean ====
section
/-! DEFINITION. The operand forms of the commands: play-times, device-clock time, bend values, master volume
(30_encoding.md R71, R87, R88; 10_state.md R14). -/

namespace Sys2Proof.Machine

/-- The device-clock time `clk = clk_n / FS` in seconds (R14). -/
def State.clk (s : State) : Rat := (s.clkN : Rat) / s.par.fs

/-- The play-time of a `T` field: `T[63:0] / 2^32` seconds (R71). -/
def playTime (t : TimeField) : Rat := (t.toNat : Rat) / 2 ^ 32

/-- The `T` field of a command issued at `now` for a play-time `q` below 0, which no field spells: a free value, but
for R296, by which such a command is late: a field below `now`, where there is one. DESIGN CHOICE (log 19). -/
def pastTimeField (now q : Rat) : TimeField :=
  let bound := (now * 2 ^ 32).ceil.toNat
  let free := (Config.freeTimeField q).toNat
  BitVec.ofNat 64 (if bound = 0 then free else free % bound)

/-- The `T` field that a host writes at `now` for a play-time `q`: `ceil(q · 2^32)` (R290); a free past one below 0; none
beyond the field (U4). -/
def timeFieldOf (now q : Rat) : Option TimeField :=
  let n := (q * 2 ^ 32).ceil
  if n < 0 then some (pastTimeField now q)
  else if n < 2 ^ 64 then some (BitVec.ofNat 64 n.toNat)
  else none

/-- The bend value `v14 = {d2[6:0], d1[6:0]}` (R87). -/
def bendValue (lsb msb : Data7) : BitVec 14 := msb ++ lsb

/-- The bend in cents: `(v14 − 8192) · PB_RANGE_CENTS / 8192` (R87). -/
def bendCents (p : Params) (v14 : BitVec 14) : Rat := ((v14.toNat : Rat) - 8192) * p.pbRangeCents / 8192

/-- The master volume of a 16-bit operand: `min(vol16, 0x8000) / 0x8000` (R88). -/
def masterVolume (vol16 : BitVec 16) : Rat := ((min vol16.toNat 0x8000 : Nat) : Rat) / 0x8000

end Sys2Proof.Machine
end

