-- ==== Sys2Proof/Machine/Flags.lean ====
section
/-! DEFINITION. The block has no status flags or condition codes (10_state.md section 4). What other machines keep in
flags is derived here from the state, "never stored" (R23): lateness (R323), whether a voice is finished (R362) or
active (R221), and the phase of a voice (R23). -/

namespace Sys2Proof.Machine

/-- A command is late when `T < clk` at dispatch; `T = clk` is on time (R323). -/
def State.late (s : State) (t : Rat) : Bool := decide (t < s.clk)

/-- A voice is unfinished when it has no stop time or one after the clock (R362). -/
def Voice.unfinished (v : Voice) (clk : Rat) : Bool := !stoppedBy v.stop clk

/-- Whether the block holds an unfinished voice, in `VT` or `TAILS` (R362). -/
def State.holdsUnfinished (s : State) : Bool :=
  s.vt.any (·.unfinished s.clk) || s.tails.any (·.unfinished s.clk)

/-- A voice is active at `t` when `T0 <= t` and its stop time, if any, is after `t` (R221). -/
def Voice.active (v : Voice) (t : Rat) : Bool := decide (v.t0 ≤ t) && !stoppedBy v.stop t

/-- The phases of a voice (R23). -/
inductive VoicePhase where
  | idle | released | pending | attack | decay | sustain | releaseScheduled
deriving DecidableEq, Repr

/-- The phase of a voice at time `t`, from the carrier's constants (R23). -/
def Voice.phase (v : Voice) (t : Rat) : VoicePhase :=
  if stoppedBy v.stop t then .idle
  else if v.rel.any (· ≤ t) || v.hs.any (· ≤ t) then .released
  else if t < v.t0 then .pending
  else if !v.opC.attack.le (Dur.ofRat (t - v.t0)) then .attack
  else if !(v.opC.attack.addSame v.opC.decay).le (Dur.ofRat (t - v.t0)) then .decay
  else if v.opC.egt then .sustain
  else .releaseScheduled

end Sys2Proof.Machine
end

