-- ==== Sys2Proof/Machine/Ops.lean ====
section
/-! DEFINITION. The named operations over registers, memories and the voice tables: everything the meanings of the
commands share. Taking an exception and returning from one do not exist on this hardware: "There is no trap entry: no
state is saved, no mode changes, no vector is fetched" (60_exceptions.md R320, R327, R328), so no operation here takes
one. -/

namespace Sys2Proof.Machine

/-! ## Channel registers (R11) -/

/-- `CH[c]`. -/
def State.chan (s : State) (c : Chan) : Channel := s.ch[c.toNat]'c.isLt

/-- `CH[c] <- x`. -/
def State.setChan (s : State) (c : Chan) (x : Channel) : State := { s with ch := s.ch.set c.toNat x c.isLt }

/-! ## Patch memories (R40, R41, R52) -/

/-- The entry at an index. -/
def Memory.read : Memory → Nat → PatchEntry
  | [], _ => .unlisted
  | (a, e) :: m, i => if a = i then e else Memory.read m i

/-- The memory with one entry written, in canonical form. -/
def Memory.write : Memory → Nat → PatchEntry → Memory
  | [], i, e => if e = .unlisted then [] else [(i, e)]
  | (a, x) :: m, i, e =>
    if i < a then (if e = .unlisted then (a, x) :: m else (i, e) :: (a, x) :: m)
    else if i = a then (if e = .unlisted then m else (i, e) :: m)
    else (a, x) :: Memory.write m i e

/-- The memory with every valid bit 0; the `rec` fields keep their values (R265, U5). -/
def Memory.clearValid : Memory → Memory
  | [] => []
  | (a, x) :: m =>
    if ({ x with valid := false } : PatchEntry) = .unlisted then Memory.clearValid m
    else (a, { x with valid := false }) :: Memory.clearValid m

/-- The canonical form: indices strictly rising and below 128, no entry equal to what an unlisted index reads as. -/
abbrev Memory.wf (m : Memory) : Prop :=
  (m.map Prod.fst).Pairwise (· < ·) ∧ ∀ p ∈ m, p.1 < 128 ∧ p.2 ≠ .unlisted

/-- `PM[space]`. -/
def State.patches (s : State) : Space → Memory
  | .melodic => s.pmMel
  | .percussion => s.pmPerc

/-- `PM[space] <- m`. -/
def State.setPatches (s : State) : Space → Memory → State
  | .melodic, m => { s with pmMel := m }
  | .percussion, m => { s with pmPerc := m }

/-- `PatchWrite(space, idx, valid, rec)` (R43): the whole entry at once (R52). -/
def State.patchWrite (s : State) (space : Space) (idx : Data7) (e : PatchEntry) : State :=
  s.setPatches space ((s.patches space).write idx.toNat e)

/-! ## Waveform cache (R24, R152) -/

/-- Fetching the table `WT(shape, fb)` for the current device: built and kept if it is not cached (R152, R185). -/
def State.fetchTable (s : State) (shape : BitVec 2) (fb : BitVec 3) : State :=
  let k : WtKey := { dev := s.dev, shape := shape, fb := fb }
  if k ∈ s.wtc then s else { s with wtc := s.wtc ++ [k] }

/-! ## Voice tables (R21, R22) -/

/-- `purge` (R183): voices whose oscillators have stopped leave `VT` and `TAILS`. -/
def State.purge (s : State) : State :=
  { s with
    vt := s.vt.filter fun v => !stoppedBy v.stop s.clk
    tails := s.tails.filter fun v => !stoppedBy v.stop s.clk }

/-- The start of the fade after `hardStop(v, t)`: `t`, or an earlier start already set (R186, second line). -/
def Voice.fadeStart (v : Voice) (t : Rat) : Rat :=
  match v.hs with
  | none => t
  | some h => if t < h then t else h

/-- The stop time after `hardStop(v, t)`: the end of the fade, or an earlier stop time already set (R186). -/
def Voice.fadeStop (p : Params) (v : Voice) (t : Rat) : Moment :=
  match v.stop with
  | none => Moment.ofRat (v.fadeStart t + p.hardStopS)
  | some m => if m.atOrBefore (v.fadeStart t + p.hardStopS) then m else Moment.ofRat (v.fadeStart t + p.hardStopS)

/-- The fields that `hardStop(v, t)` gives a voice (R186); none where the voice is "already finished by then". -/
def Voice.hardStopped (p : Params) (t : Rat) (v : Voice) : Option Voice :=
  if stoppedBy v.stop t then none else some { v with hs := some (v.fadeStart t), stop := some (v.fadeStop p t) }

/-- The voice after `hardStop(v, t)`: as it was where it is "already finished by then" (R186). -/
def Voice.hardStoppedTail (p : Params) (t : Rat) (v : Voice) : Voice := (v.hardStopped p t).getD v

/-- `hardStop(v, t)` for a voice its caller has removed from `VT`: the voice joins `TAILS`, a finished one too, because
"a voice leaves `VT` when released or hard-stopped and joins `TAILS`" (R22, R186, D18; log 11). -/
def State.hardStopInto (s : State) (v : Voice) (t : Rat) : State :=
  { s with tails := s.tails ++ [v.hardStoppedTail s.par t] }

/-- The fields that `release(v, t)` gives a voice (R193). -/
def Voice.released (p : Params) (t : Rat) (v : Voice) : Voice :=
  { v with
    rel := some t
    stop := some { base := t + p.stopMarginS, dur := v.opM.release.max v.opC.release } }

/-- The registry voice with a key (R21: at most one). -/
def State.findVoice (s : State) (k : Key) : Option Voice := s.vt.find? fun v => v.key = k

/-- Removing from `VT` the voice with a key. -/
def State.dropVoice (s : State) (k : Key) : State := { s with vt := s.vt.eraseP fun v => v.key = k }

/-- `release(v, t)` for the registry voice with a key, nothing where there is none (R192, R193). -/
def State.releaseKey (s : State) (k : Key) (t : Rat) : State :=
  match s.findVoice k with
  | none => s
  | some v => { s.dropVoice k with tails := s.tails ++ [v.released s.par t] }

/-- Re-trigger: the registry voice with a key leaves `VT` and is hard-stopped (R180 step 5, R194). -/
def State.retrigger (s : State) (k : Key) (t : Rat) : State :=
  match s.findVoice k with
  | none => s
  | some v => (s.dropVoice k).hardStopInto v t

/-- Eviction: with the registry full, its first voice leaves `VT` and is hard-stopped (R180 step 6, R195). -/
def State.evict (s : State) (t : Rat) : State :=
  match s.vt with
  | [] => s
  | v :: rest => if s.vt.length ≥ Config.voiceLimit then ({ s with vt := rest } : State).hardStopInto v t else s

/-- The detune breakpoints of one voice after a re-target at `t` (R172). -/
def Voice.retargeted (t cents : Rat) (v : Voice) : Voice :=
  if t ≤ v.t0 then { v with bend := [(v.t0, cents)] }
  else { v with bend := v.bend.filter (fun b => decide (b.1 < t)) ++ [(t, cents)] }

/-- `retarget(ch, T, cents)` (R172): every registry voice of the channel, unless the change is late. -/
def State.retarget (s : State) (ch : Chan) (t cents : Rat) : State :=
  if s.late t then s
  else { s with vt := s.vt.map fun v => if v.key.ch = ch then v.retargeted t cents else v }

end Sys2Proof.Machine
end

