-- ==== Sys2Proof/Machine/Audio.lean ====
section
/-! DEFINITION. The audio agent (45_audio_path.md R220 to R241): what the block puts on its output at a sample tick,
as exact formulas over the voice records, and how the phases advance. Times are rationals, so every choice a rule
makes by time is decided exactly. -/

namespace Sys2Proof.Machine

/-- The two operators of a voice. -/
inductive OpName where
  | modulator | carrier
deriving DecidableEq, Repr

/-- `v.op[X]`. -/
def Voice.op (v : Voice) : OpName → OpRun
  | .modulator => v.opM
  | .carrier => v.opC

/-- `v.ph[X]`. -/
def Voice.ph (v : Voice) : OpName → RTerm
  | .modulator => v.phM
  | .carrier => v.phC

/-! ## Detune and frequency (R222, R223) -/

/-- `bendAt(v, t)`: the cents of the last breakpoint at or before `t` (R222). Every voice that a NOTE_ON built has
one for `t >= T0`; 0 otherwise (log 22). -/
def Voice.bendAt (v : Voice) (t : Rat) : Rat :=
  match (v.bend.filter fun b => decide (b.1 ≤ t)).getLast? with
  | some b => b.2
  | none => 0

/-- `t - start`, the time since an event of the voice. -/
def since (start t : Rat) : RTerm := .sub (.rat t) (.rat start)

/-- `sin(2π · hz · u)` (R222, R235). -/
def lfo (hz : Rat) (u : RTerm) : RTerm := .sin (.mul (.mul (.mul (.rat 2) .pi) (.rat hz)) u)

/-- `vib(v, X, t)` in cents (R222). -/
def Voice.vibrato (p : Params) (v : Voice) (x : OpName) (t : Rat) : RTerm :=
  if (v.op x).vib then .mul (.rat p.vibCents) (lfo p.vibHz (since v.t0 t)) else .rat 0

/-- `cents(v, X, t)` (R222). -/
def Voice.cents (p : Params) (v : Voice) (x : OpName) (t : Rat) : RTerm := .add (.rat (v.bendAt t)) (v.vibrato p x t)

/-- `freq(v, X, t)` in Hz (R223). -/
def Voice.freq (p : Params) (v : Voice) (x : OpName) (t : Rat) : RTerm :=
  .mul (v.op x).f (.pow2 (.div (v.cents p x t) (.rat 1200)))

/-! ## The envelope generator (R230 to R235) -/

/-- The time constant of a phase: its duration over `ENV_K` (R230). -/
def timeConstant (d : Dur) : RTerm := .div d.term .envK

/-- "Exponential approach" to `target` from `start`, `elapsed` after its start (R230):
`target + (start − target) · exp(−elapsed / tau)`. -/
def approach (target start elapsed tau : RTerm) : RTerm :=
  .add target (.mul (.sub start target) (.exp (.div (.neg elapsed) tau)))

/-- The attack branch of `env0`: `L · (1 − exp(−u / tauA))` (R230). -/
def OpRun.attackGain (o : OpRun) (u : RTerm) : RTerm :=
  .mul o.level (.sub (.rat 1) (.exp (.div (.neg u) (timeConstant o.attack))))

/-- `gA`, the gain reached at the end of the attack: `L · (1 − exp(−ENV_K))` (R230). -/
def OpRun.gA (o : OpRun) : RTerm := .mul o.level (.sub (.rat 1) (.exp (.neg .envK)))

/-- The sustain target `L · S` (R230). -/
def OpRun.sustainGain (o : OpRun) : RTerm := .mul o.level o.sustain

/-- The decay branch of `env0`, and the hold of R231. -/
def OpRun.decayGain (o : OpRun) (u : RTerm) : RTerm :=
  approach o.sustainGain o.gA (.sub u o.attack.term) (timeConstant o.decay)

/-- `gD`, the gain reached at the end of the decay (R230). -/
def OpRun.gD (o : OpRun) : RTerm :=
  .add o.sustainGain (.mul (.sub o.gA o.sustainGain) (.exp (.neg .envK)))

/-- The self-release branch of `env0` (R232). -/
def OpRun.selfReleaseGain (o : OpRun) (u : RTerm) : RTerm :=
  approach (.rat Config.floorLevel) o.gD (.sub (.sub u o.attack.term) o.decay.term) (timeConstant o.release)

/-- `env0(X, t - start)`, the 3-phase envelope (R230 to R232). -/
def OpRun.env0 (o : OpRun) (start t : Rat) : RTerm :=
  if !o.attack.le (Dur.ofRat (t - start)) then o.attackGain (since start t)
  else if !(o.attack.addSame o.decay).le (Dur.ofRat (t - start)) then o.decayGain (since start t)
  else if o.egt then o.decayGain (since start t)
  else o.selfReleaseGain (since start t)

/-- `g_r`, the gain a release ramp starts from (R233). -/
def Voice.releaseStart (v : Voice) (x : OpName) (tr : Rat) : RTerm :=
  if tr < v.t0 then .rat 0 else (v.op x).env0 v.t0 tr

/-- `env1(v, X, t)`: the envelope with the release ramp (R233). -/
def Voice.env1 (v : Voice) (x : OpName) (t : Rat) : RTerm :=
  if t < v.t0 then .rat 0
  else match v.rel with
    | none => (v.op x).env0 v.t0 t
    | some tr =>
      if t < tr then (v.op x).env0 v.t0 t
      else approach (.rat Config.floorLevel) (v.releaseStart x tr) (since tr t) (timeConstant (v.op x).release)

/-- `gain(v, X, t)`: the hard-stop fade over `env1` (R234). -/
def Voice.gain (p : Params) (v : Voice) (x : OpName) (t : Rat) : RTerm :=
  match v.hs with
  | none => v.env1 x t
  | some th =>
    if t < th then v.env1 x t
    else .mul (v.env1 x th) (.max (.rat 0) (.sub (.rat 1) (.div (since th t) (.rat p.hardStopS))))

/-- The amplitude-modulation factor (R235). -/
def Voice.amFactor (p : Params) (v : Voice) (x : OpName) (t : Rat) : RTerm :=
  if (v.op x).am then .add (.rat 1) (.mul (.rat p.amDepth) (lfo p.amHz (since v.t0 t))) else .rat 1

/-- `gainAM(v, X, t)` (R235). -/
def Voice.gainAM (p : Params) (v : Voice) (x : OpName) (t : Rat) : RTerm := .mul (v.gain p x t) (v.amFactor p x t)

/-! ## Oscillators and algorithms (R224 to R226) -/

/-- The output of one operator: table lookup times gain (R224, R225). -/
def Voice.opOut (p : Params) (v : Voice) (x : OpName) (t : Rat) : RTerm :=
  .mul (.wave p.wtN p.wtPrime (v.op x).ws (v.op x).fb (v.ph x)) (v.gainAM p x t)

/-- `fcar(v, t)`: the carrier's instantaneous frequency (R224, R225). -/
def Voice.fcar (p : Params) (v : Voice) (t : Rat) : RTerm :=
  match v.alg with
  | .fm => .add (v.freq p .carrier t) (.mul (.fmDepth v.opM.f v.opC.f) (v.opOut p .modulator t))
  | .additive => v.freq p .carrier t

/-- `y(v, t)`: the voice's output (R224, R225). -/
def Voice.out (p : Params) (v : Voice) (t : Rat) : RTerm :=
  match v.alg with
  | .fm => v.opOut p .carrier t
  | .additive => .add (v.opOut p .carrier t) (v.opOut p .modulator t)

/-- The phases after a tick at which the voice is active (R226). DEDUCED: both advances are computed from the phases before
the tick, so in FM `fcar` reads `ph[M]` before its advance (log 30). -/
def Voice.advance (p : Params) (v : Voice) (t : Rat) : Voice :=
  { v with
    phM := .add v.phM (.div (v.freq p .modulator t) (.rat p.fs))
    phC := .add v.phC (.div (v.fcar p t) (.rat p.fs)) }

/-- A voice after a tick: advanced where it is active, as it was elsewhere (R226, R240). -/
def Voice.ticked (p : Params) (t : Rat) (v : Voice) : Voice := if v.active t then v.advance p t else v

/-! ## The mixer and the tick (R240, R220) -/

/-- The sum over the active voices of gain times output (R240). -/
def mixSum (p : Params) (t : Rat) (gainOf : Voice → RTerm) (vs : List Voice) : RTerm :=
  (vs.filter (·.active t)).foldl (fun acc v => .add acc (.mul (gainOf v) (v.out p t))) (.rat 0)

/-- The left output at time `t` (R240). -/
def State.mixL (s : State) (t : Rat) : RTerm := .mul (.rat s.mvol) (mixSum s.par t Voice.gL (s.vt ++ s.tails))

/-- The right output at time `t` (R240). -/
def State.mixR (s : State) (t : Rat) : RTerm := .mul (.rat s.mvol) (mixSum s.par t Voice.gR (s.vt ++ s.tails))

/-- One sample tick (R220): the output pair, the phases, the clock. -/
def State.sampleTick (s : State) : State :=
  { s with
    outL := s.mixL s.clk
    outR := s.mixR s.clk
    vt := s.vt.map (·.ticked s.par s.clk)
    tails := s.tails.map (·.ticked s.par s.clk)
    clkN := s.clkN + 1 }

end Sys2Proof.Machine
end

