-- ==== Sys2Proof/Machine/Bank.lean ====
section
/-! DEFINITION. The bank loader at the block's boundary (20_memory.md R47 to R49, 30_encoding.md R91): host software
that reads a bank file and writes the patch memories through the patch port. What the source does not give (signature,
pad test, record layout, the entry a record is for) is opaque in Config (log 21). -/

namespace Sys2Proof.Machine

/-- Two little-endian bytes at an offset (R47). -/
def le16 (bytes : List FileByte) (off : Nat) : Nat :=
  (bytes.getD off 0#8).toNat + 256 * (bytes.getD (off + 1) 0#8).toNat

/-- Four little-endian bytes at an offset (R47). -/
def le32 (bytes : List FileByte) (off : Nat) : Nat := le16 bytes off + 65536 * le16 bytes (off + 2)

/-- The header of a bank file (R47). -/
structure BankHeader where
  entryCount : Nat
  instrumentCount : Nat
  namesOffset : Nat
  instrumentsOffset : Nat
deriving DecidableEq, Repr

/-- The header of a bank that starts at its signature, none where R48 says parsing fails: the signature does not match, or
a table offset runs past the buffer end. DEDUCED: the whole table is meant (log 21). DESIGN CHOICE: the two offset values
count from the signature (log 29). -/
def parseHeader (bytes : List FileByte) : Option BankHeader :=
  let h : BankHeader :=
    { entryCount := le16 bytes 6
      instrumentCount := le16 bytes 8
      namesOffset := le32 bytes 10
      instrumentsOffset := le32 bytes 14 }
  if bytes.take 6 = Config.bankSignature.toList ∧ 18 ≤ bytes.length ∧
      h.namesOffset + 12 * h.entryCount ≤ bytes.length ∧
      h.instrumentsOffset + 30 * h.instrumentCount ≤ bytes.length then some h else none

/-- One patch-port write of the loader: where a names-table entry goes, and its patch (R49). -/
structure BankWrite where
  space : Space
  idx : Data7
  patch : Patch
deriving DecidableEq, Repr

/-- The patch memory entry a usable bank entry goes to (R49): `PM_MEL[program]`, or `PM_PERC[tag]`, none for a tag above
127, which is no percussion note. -/
def bankSlot (target : BankTarget) (tag : FileByte) : Option (Space × Data7) :=
  match target with
  | .melodic program => some (.melodic, program)
  | .percussion => if tag.getLsbD 7 then none else some (.percussion, low7 tag)

/-- The write for the `k`-th entry of the names table, none where the entry is not usable (R47, R49). DESIGN CHOICE:
instrument indices count from 0, so that the table's first record is index 0 and an index equal to the instrument count
is past it; R47 and R49 do not say where they count from (log 33). -/
def bankEntry (body : List FileByte) (h : BankHeader) (k : Nat) : Option BankWrite :=
  let off := h.namesOffset + 12 * k
  let index := le16 body off
  if index < h.instrumentCount then
    ((Config.bankTarget body k).bind (bankSlot · (body.getD (off + 2) 0#8))).map fun slot =>
      { space := slot.1
        idx := slot.2
        patch := Config.bankRecord ((body.drop (h.instrumentsOffset + 30 * index)).take 30) }
  else none

/-- The writes of a parsed bank, one per usable entry (R49). DESIGN CHOICE: in the order of its names table, so that of
two entries for one program or percussion note the later one stands; R49 and R91 give no order (log 31). -/
def bankWrites (body : List FileByte) (h : BankHeader) : List BankWrite :=
  (List.range h.entryCount).filterMap (bankEntry body h)

/-- The bytes from the signature on (R47). -/
def bankBody (bytes : List FileByte) : List FileByte := if Config.bankHasPad bytes then bytes.drop 2 else bytes

/-- The words of a bank that starts at its signature: on success BANK_CLR of the spaces the bank covers and one
PATCH_WR per usable entry (R49, R91); on failure nothing (R48). DESIGN CHOICE: a bank with no usable entry covers no
space and still issues BANK_CLR 0, 0; R91 does not say (log 32). -/
def bankWords (body : List FileByte) : List PortWord :=
  match parseHeader body with
  | none => []
  | some h =>
    let ws := bankWrites body h
    encode (.bankClr (ws.any (·.space = .melodic)) (ws.any (·.space = .percussion)) 0#64) ::
      ws.map fun w => encode (.patchWr w.space w.idx true w.patch)

/-- `loadBank(rawBytes)` as the words it issues (R91). -/
def loadBankWords (bytes : List FileByte) : List PortWord := bankWords (bankBody bytes)

end Sys2Proof.Machine
end

