-- ==== Sys2Proof/Machine/Scheduler.lean ====
section
/-! DEFINITION. The host: the Playback Scheduler and the control surface (47_host_scheduler.md R280 to R301). Each
operation answers the host's next state and the words it issues, in order; none where a play-time does not fit its
field (93_implementation_defined.md U4). -/

namespace Sys2Proof.Machine

/-! ## Dispatch (R290) -/

/-- The opcode of an event type (R75). -/
def eventOpcode : EventKind → BitVec 4
  | .noteOff => 0x8#4
  | .noteOn => 0x9#4
  | .controlChange => 0xB#4
  | .programChange => 0xC#4
  | .pitchBend => 0xE#4

/-- `dispatch(e)` at `now` (R290): the Format E command of the event with its channel and data bytes, its play-time
`anchor + e.time` rounded up. -/
def dispatchEvent (now anchor : Rat) (e : Event) : Option PortWord :=
  (timeFieldOf now (anchor + e.time)).map fun t => eventWord t (eventOpcode e.kind) e.ch e.d1 e.d2

/-- The words of several events in order, none if one of them has none. -/
def dispatchAll (now anchor : Rat) : List Event → Option (List PortWord)
  | [] => some []
  | e :: es =>
    match dispatchEvent now anchor e, dispatchAll now anchor es with
    | some w, some ws => some (w :: ws)
    | _, _ => none

/-- The ALL_STOP command (R297, R299). -/
def allStopWord : PortWord := encode (.allStop 0#64)

/-- The CH_RESET command (R283). -/
def chResetWord : PortWord := encode (.chReset 0#64)

/-! ## Loop markers (R285, R286) -/

/-- Whether an event is a control-change of a controller number, on any channel (R285). -/
def Event.isController (cc : BitVec 8) (e : Event) : Bool := e.kind = .controlChange && e.d1 = cc

/-- The index of the loop-start marker: the first controller 110 (R285). -/
def loopStartMarker (seq : List Event) : Option Nat := seq.findIdx? (·.isController 110#8)

/-- The index of the loop-end marker after index `i`: the first controller 111 at or after the start's time (R285). -/
def loopEndMarker (seq : List Event) (i : Nat) (start : Rat) : Option Nat :=
  ((seq.drop (i + 1)).findIdx? fun e => e.isController 111#8 && decide (start ≤ e.time)).map (· + (i + 1))

/-- The time of an event by index (0 past the end). -/
def timeAt (seq : List Event) (i : Nat) : Rat := (seq[i]?.map Event.time).getD 0

/-- The loop fields for a song (R285), the whole song without both markers (R286). -/
def Scheduler.scan (h : Scheduler) : Scheduler :=
  let whole := { h with loopStartIdx := 0, loopEndIdx := h.seq.length, loopStart := 0, loopEnd := h.total,
                        loopDur := h.total }
  match loopStartMarker h.seq with
  | none => whole
  | some i =>
    let start := timeAt h.seq i
    match loopEndMarker h.seq i start with
    | none => whole
    | some j => { h with loopStartIdx := i, loopEndIdx := j, loopStart := start, loopEnd := timeAt h.seq j,
                         loopDur := timeAt h.seq j - start }

/-! ## The pump (R289 to R294) -/

/-- The end index of the section being played (R289). -/
def Scheduler.endIdx (h : Scheduler) : Nat := if h.looping then h.loopEndIdx else h.seq.length

/-- The end time of the section being played (R289). -/
def Scheduler.endTime (h : Scheduler) : Rat := if h.looping then h.loopEnd else h.total

/-- The end of the lookahead window in song time (R289). -/
def Scheduler.horizon (p : Params) (h : Scheduler) (now : Rat) : Rat := now - h.anchor + p.lookaheadS

/-- The events one pass of the inner loop dispatches: from the cursor, before the end index, inside the window
(R289). -/
def Scheduler.batch (p : Params) (h : Scheduler) (now : Rat) : List Event :=
  ((h.seq.take h.endIdx).drop h.cursor).takeWhile fun e => decide (e.time ≤ h.horizon p now)

/-- The pump's `repeat`, with the wraps still allowed (R289, R292, R293, R294). -/
def Scheduler.pumpLoop (p : Params) (now : Rat) : Nat → Scheduler → Option (Scheduler × List PortWord)
  | wraps, h =>
    match dispatchAll now h.anchor (h.batch p now) with
    | none => none
    | some ws =>
      let h' := { h with cursor := h.cursor + (h.batch p now).length }
      if h'.cursor = h.endIdx ∧ h.endTime ≤ h.horizon p now then
        if h.looping then
          match wraps with
          | 0 => some (h', ws)
          | k + 1 =>
            match Scheduler.pumpLoop p now k
                { h' with anchor := h.anchor + h.loopDur, cursor := h.loopStartIdx } with
            | none => none
            | some (h'', ws') => some (h'', ws ++ ws')
        else if h.endTime < now - h.anchor then
          some ({ h' with mode := .stopped, timer := none }, ws)
        else some (h', ws)
      else some (h', ws)

/-- `tick(now)`: one pump (R289). -/
def Scheduler.tick (p : Params) (now : Rat) (h : Scheduler) : Option (Scheduler × List PortWord) :=
  match h.mode with
  | .playing => h.pumpLoop p now p.maxWraps
  | _ => some (h, [])

/-! ## play, pause, resume, stop, volume (R283, R297 to R300) -/

/-- `stop()` (R299). -/
def Scheduler.stop (h : Scheduler) : Scheduler × List PortWord :=
  ({ h with timer := none, mode := .stopped }, [allStopWord])

/-- `play(seq, loop)` (R283): stop first unless Stopped; nothing more for an empty song. -/
def Scheduler.play (p : Params) (clk : Rat) (seq : List Event) (loop : Bool) (h : Scheduler) :
    Option (Scheduler × List PortWord) :=
  let pre := if h.mode = .stopped then (h, []) else h.stop
  match seq.getLast? with
  | none => some pre
  | some last =>
    let started := { ({ pre.1 with seq := seq, total := last.time } : Scheduler).scan with
      looping := loop
      anchor := clk + p.leadS
      cursor := 0
      mode := .playing
      timer := some (clk + p.pumpPeriodS) }
    match started.tick p clk with
    | none => none
    | some (h', ws) => some (h', pre.2 ++ chResetWord :: ws)

/-- `pause()` (R297). -/
def Scheduler.pause (clk : Rat) (h : Scheduler) : Scheduler × List PortWord :=
  if h.mode = .playing then
    ({ h with pausedElapsed := max 0 (clk - h.anchor), timer := none, mode := .paused }, [allStopWord])
  else (h, [])

/-- The cursor of `resume`: the first event at or after the elapsed time, else the end index (R298). -/
def Scheduler.resumeCursor (h : Scheduler) : Nat :=
  (h.seq.findIdx? fun e => decide (h.pausedElapsed ≤ e.time)).getD h.endIdx

/-- `resume()` (R298). -/
def Scheduler.resume (p : Params) (clk : Rat) (h : Scheduler) : Option (Scheduler × List PortWord) :=
  if h.mode = .paused then
    ({ h with
      anchor := clk + p.leadS - h.pausedElapsed
      cursor := h.resumeCursor
      mode := .playing
      timer := some (clk + p.pumpPeriodS) } : Scheduler).tick p clk
  else some (h, [])

/-- `round(x · 0x8000)` with `x` clamped to 0..1 (R91, R300); a tie goes as `Config.roundTieUp` says (log 20). -/
def volumeOperand (x : Rat) : BitVec 16 :=
  let y := max 0 (min 1 x) * 0x8000
  let k := y.floor.toNat
  let part := y - (k : Rat)
  if part < 1 / 2 then BitVec.ofNat 16 k
  else if 1 / 2 < part then BitVec.ofNat 16 (k + 1)
  else if Config.roundTieUp k then BitVec.ofNat 16 (k + 1)
  else BitVec.ofNat 16 k

/-- The command `setMasterVolume(x)` issues (R300). -/
def volumeWord (x : Rat) : PortWord := encode (.mvol (volumeOperand x) 0#64)

/-! ## The timer (R288) -/

/-- Whether the pump timer is due. -/
def Scheduler.timerDue (clk : Rat) (h : Scheduler) : Bool := h.timer.any (· ≤ clk)

/-- A firing of the pump timer: the next one is `PUMP_PERIOD_S` later, and `tick(clk)` runs (R288). -/
def Scheduler.fire (p : Params) (clk : Rat) (h : Scheduler) : Option (Scheduler × List PortWord) :=
  ({ h with timer := h.timer.map (· + p.pumpPeriodS) } : Scheduler).tick p clk

end Sys2Proof.Machine
end

