-- ==== Sys2Proof/Machine/Agents.lean ====
section
/-! DEFINITION. The agents around the command agent (10_state.md R10): fetching a waiting word, the host's calls and
timer, and reset. -/

namespace Sys2Proof.Machine

/-- The oldest word that waits on the ports, and the state without it (R13: "The order of execution is the order of
arrival"). -/
def State.fetch (s : State) : Option (PortWord × State) :=
  match s.port with
  | [] => none
  | w :: rest => some (w, { s with port := rest })

/-- The state after the host has moved to `h` and issued `ws`. -/
def State.issue (s : State) (h : Scheduler) (ws : List PortWord) : State := { s with sched := h, port := s.port ++ ws }

/-- The outcome of a host operation: its state and words, refused where a play-time does not fit (U4). -/
def State.hostOutcome (s : State) (r : Option (Scheduler × List PortWord)) : Host.Outcome State Fault Refusal :=
  match r with
  | none => .refused .playTimeOutOfField
  | some (h, ws) => .next (s.issue h ws)

/-- A call of the control surface, of the bank loader or of `tick` (R91, R280). -/
def State.hostCall (s : State) : HostCall → Host.Outcome State Fault Refusal
  | .play seq loop => s.hostOutcome (s.sched.play s.par s.clk seq loop)
  | .pause => s.hostOutcome (some (s.sched.pause s.clk))
  | .resume => s.hostOutcome (s.sched.resume s.par s.clk)
  | .stop => s.hostOutcome (some s.sched.stop)
  | .setMasterVolume x => s.hostOutcome (some (s.sched, [volumeWord x]))
  | .loadBank bytes => s.hostOutcome (some (s.sched, loadBankWords bytes))
  | .tick => s.hostOutcome (s.sched.tick s.par s.clk)

/-- Reset as an event (R350, R351): every piece of state at its reset value; parameters are not touched, and what
the outside world will still do is not the machine's. -/
def State.resetEvent (s : State) : State := { State.resetWith s.par with env := s.env }

/-- The delivery of one input of the outside world. -/
def State.deliver (s : State) : Input → Host.Outcome State Fault Refusal
  | .word w => .next { s with port := s.port ++ [w] }
  | .call c => s.hostCall c
  | .reset => .next s.resetEvent

/-- With nothing waiting: the host's pump if its timer is due (R288), else one sample tick (R220). -/
def State.idle (s : State) : Host.Outcome State Fault Refusal :=
  if s.sched.timerDue s.clk then s.hostOutcome (s.sched.fire s.par s.clk) else .next s.sampleTick

/-- With no word waiting on the ports: the next input of the outside world if it is due, else `idle`. -/
def State.attend (s : State) : Host.Outcome State Fault Refusal :=
  match s.env with
  | [] => s.idle
  | (n, i) :: rest => if n ≤ s.clkN then ({ s with env := rest } : State).deliver i else s.idle

end Sys2Proof.Machine
end

