-- ==== Sys2Proof/Machine/ChannelCommands.lean ====
section
/-! DEFINITION. The meanings of the channel commands (43_channel_commands.md R160 to R173). -/

namespace Sys2Proof.Machine

/-- CC_VOLUME (R161): `CH[ch].vol <- val`; `T` ignored. -/
def execCcVolume (ch : Chan) (val : Data7) (s : State) : Host.Outcome State Fault Refusal :=
  .next (s.setChan ch { s.chan ch with vol := val })

/-- CC_PAN (R162): `CH[ch].pan <- val`; `T` ignored. -/
def execCcPan (ch : Chan) (val : Data7) (s : State) : Host.Outcome State Fault Refusal :=
  .next (s.setChan ch { s.chan ch with pan := val })

/-- CC_EXPR (R163): `CH[ch].expr <- val`; `T` ignored. -/
def execCcExpr (ch : Chan) (val : Data7) (s : State) : Host.Outcome State Fault Refusal :=
  .next (s.setChan ch { s.chan ch with expr := val })

/-- The channel record after CC_RESET: controllers at their reset values, bend 0, program kept (R164). -/
def resetControllers (p : Params) (c : Channel) : Channel :=
  { c with vol := p.chReset.vol, pan := p.chReset.pan, expr := p.chReset.expr, bend := 0 }

/-- CC_RESET (R164): the untimed channel write, then `retarget(ch, T, 0)`; `val` ignored. -/
def execCcReset (ch : Chan) (t : TimeField) (s : State) : Host.Outcome State Fault Refusal :=
  .next ((s.setChan ch (resetControllers s.par (s.chan ch))).retarget ch (playTime t) 0)

/-- CC_LOOP_START (R165): a marker for the host; `nop` in the block. -/
def execCcLoopStart (s : State) : Host.Outcome State Fault Refusal := .next s

/-- CC_LOOP_END (R165): a marker for the host; `nop` in the block. -/
def execCcLoopEnd (s : State) : Host.Outcome State Fault Refusal := .next s

/-- CC_OTHER (R166): `nop`. -/
def execCcOther (s : State) : Host.Outcome State Fault Refusal := .next s

/-- PROG_CHANGE (R170): `CH[ch].prog <- prog`; `d2` and `T` ignored. -/
def execProgChange (ch : Chan) (prog : Data7) (s : State) : Host.Outcome State Fault Refusal :=
  .next (s.setChan ch { s.chan ch with prog := prog })

/-- PITCH_BEND (R171): the untimed channel write, then `retarget(ch, T, cents)`. -/
def execPitchBend (ch : Chan) (lsb msb : Data7) (t : TimeField) (s : State) : Host.Outcome State Fault Refusal :=
  let cents := bendCents s.par (bendValue lsb msb)
  .next ((s.setChan ch { s.chan ch with bend := cents }).retarget ch (playTime t) cents)

end Sys2Proof.Machine
end

