-- ==== Sys2Proof/Machine/PatchSelect.lean ====
section
/-! DEFINITION. Patch selection: how NOTE_ON finds its patch (40_patch_select.md R100 to R105). -/

namespace Sys2Proof.Machine

/-- `getPatch(prog)` (R100): bank override, else built-in entry, else the generic patch. -/
def State.getPatch (s : State) (prog : Data7) : Patch :=
  let e := s.pmMel.read prog.toNat
  if e.valid then e.patch
  else match Config.builtinMel prog with
    | some p => p
    | none => Config.genericPatch

/-- Whether some entry of `PM_PERC` is valid (R41, R102, R103). -/
def State.percussionLoaded (s : State) : Bool := (List.range 128).any fun k => (s.pmPerc.read k).valid

/-- `abs(k − note)` over the integers (R102). -/
def noteDistance (k note : Nat) : Nat := ((k : Int) - (note : Int)).natAbs

/-- One step of the search of R102: `k` replaces the best so far only at a strictly smaller distance. -/
def nearerNote (m : Memory) (note : Nat) (best : Option Nat) (k : Nat) : Option Nat :=
  if (m.read k).valid then
    match best with
    | none => some k
    | some b => if noteDistance k note < noteDistance b note then some k else some b
  else best

/-- The valid entry nearest to a note, ties to the lower (R102). -/
def nearestNote (m : Memory) (note : Nat) : Option Nat := (List.range 128).foldl (nearerNote m note) none

/-- `getPercussionPatch(note, prog)` (R102, R103). -/
def State.getPercussionPatch (s : State) (note prog : Data7) : Patch :=
  if s.percussionLoaded then
    if (s.pmPerc.read note.toNat).valid then (s.pmPerc.read note.toNat).patch
    else match nearestNote s.pmPerc note.toNat with
      | some k => (s.pmPerc.read k).patch
      | none => s.getPatch prog
  else s.getPatch prog

/-- `selectPatch(ch, note)` (R101). -/
def State.selectPatch (s : State) (ch : Chan) (note : Data7) : Patch :=
  if ch = s.par.percCh then s.getPercussionPatch note (s.chan ch).prog
  else s.getPatch (s.chan ch).prog

end Sys2Proof.Machine
end

