-- ==== Sys2Proof/Machine/Translator.lean ====
section
/-! DEFINITION. The Parameter Translator (41_param_translator.md R120 to R131): from register fields to seconds,
levels and frequencies. Rational results are rationals; the others are exact formulas (R7). -/

namespace Sys2Proof.Machine

/-- `attackSeconds(rate)` (R121). -/
def attackSeconds (rate : BitVec 4) : Rat :=
  if rate = 0#4 then 10 else (2826 / 1000) / 2 ^ (rate.toNat - 1)

/-- `decaySeconds(rate)` (R122). -/
def decaySeconds (rate : BitVec 4) : Rat :=
  if rate = 0#4 then 30 else (3928 / 100) / 2 ^ (rate.toNat - 1)

/-- `releaseSeconds(rate)`, the same function (R123). -/
def releaseSeconds (rate : BitVec 4) : Rat := decaySeconds rate

/-- `sustainLevel(field)` (R124). -/
def sustainLevel (field : BitVec 4) : RTerm :=
  if field = 0#4 then .rat 1
  else if field = 15#4 then .rat (2 / 100000)
  else .pow10 (.div (.mul (.rat (-3)) (.rat field.toNat)) (.rat 20))

/-- `totalLevel(field)` (R125). -/
def totalLevel (field : BitVec 6) : RTerm :=
  if field = 0#6 then .rat 1
  else if field = 63#6 then .rat (5 / 1000)
  else .pow10 (.div (.mul (.rat (-(75 / 100))) (.rat field.toNat)) (.rat 20))

/-- `multiplier(MULT)` (R126). -/
def multiplier (mult : BitVec 4) : Rat := if mult = 0#4 then 1 / 2 else (mult.toNat : Rat)

/-- `noteFrequency(note)` in Hz (R127). -/
def noteFrequency (note : Data7) : RTerm :=
  .mul (.rat 440) (.pow2 (.div (.rat ((note.toNat : Rat) - 69)) (.rat 12)))

/-- `KSL_DB`, dB per octave (R128). -/
def kslDb (k : BitVec 2) : Rat :=
  match k.toNat with
  | 0 => 0
  | 1 => 3
  | 2 => 3 / 2
  | _ => 6

/-- `octavesAbove(note)` over the reference note (R128). -/
def octavesAbove (ref : Nat) (note : Data7) : RTerm :=
  .max (.rat 0) (.div (.rat ((note.toNat : Rat) - (ref : Rat))) (.rat 12))

/-- `keyScaleLevel(k, note)` (R128). -/
def keyScaleLevel (ref : Nat) (k : BitVec 2) (note : Data7) : RTerm :=
  .pow10 (.div (.mul (.rat (-(kslDb k))) (octavesAbove ref note)) (.rat 20))

/-- The exponent of `keyScaleRate` in 24ths: `max(0, note − 36)` with the flag set (R129). -/
def keyScaleExponent (ksr : Bool) (note : Data7) : Nat := if ksr then note.toNat - Config.ksrRefNote else 0

/-- `keyScaleRate(flagSet, note)` (R129). -/
def keyScaleRate (ksr : Bool) (note : Data7) : RTerm :=
  if ksr then .pow2 (.div (.rat (keyScaleExponent ksr note)) (.rat 24)) else .rat 1

/-- A duration divided by `keyScaleRate(KSR, note)` (R130). -/
def keyScaled (seconds : Rat) (ksr : Bool) (note : Data7) : Dur :=
  { coef := seconds, k := keyScaleExponent ksr note }

/-- `velFactor(vel)` (R131). -/
def velFactor (vel : Data7) : RTerm :=
  let x : RTerm := .div (.rat vel.toNat) (.rat 127)
  .mul x x

/-- `volFactor(vol)` (R131). -/
def volFactor (vol : Data7) : RTerm := .div (.rat vol.toNat) (.rat 127)

/-- `exprFactor(expr)` (R131). -/
def exprFactor (expr : Data7) : RTerm := .div (.rat expr.toNat) (.rat 127)

end Sys2Proof.Machine
end

