-- ==== Sys2Proof/Machine/NoteCommands.lean ====
section
/-! DEFINITION. The meanings of NOTE_ON and NOTE_OFF (44_note_commands.md R180 to R195): building a voice, and the
order of late test, velocity 0, purge, re-trigger, eviction and allocation (60_exceptions.md R326). -/

namespace Sys2Proof.Machine

/-! ## Building a voice -/

/-- `common`: the channel and velocity factors of a sounding operator (R188). -/
def commonFactor (c : Channel) (vel : Data7) : RTerm :=
  .mul (.mul (volFactor c.vol) (exprFactor c.expr)) (velFactor vel)

/-- The peak level of an operator with a given factor (R188). -/
def peakLevel (p : Params) (o : Operator) (note : Data7) (factor : RTerm) : RTerm :=
  .mul (.mul (totalLevel o.tl) (keyScaleLevel p.kslRefNote o.ksl note)) factor

/-- The constants of one operator (R187), with its feedback and its level factor (R188). -/
def buildOp (p : Params) (o : Operator) (fb : BitVec 3) (note : Data7) (factor : RTerm) : OpRun where
  f := .mul (noteFrequency note) (.rat (multiplier o.mult))
  ws := o.ws
  fb := fb
  level := peakLevel p o note factor
  sustain := sustainLevel o.sl
  attack := keyScaled (attackSeconds o.ar) o.ksr note
  decay := keyScaled (decaySeconds o.dr) o.ksr note
  release := keyScaled (releaseSeconds o.rr) o.ksr note
  egt := o.egt
  am := o.am
  vib := o.vib

/-- `A + D + R` of an operator (R191). -/
def OpRun.tail (o : OpRun) : Dur := (o.attack.addSame o.decay).addSame o.release

/-- The auto-stop time (R191): set when every sounding operator has its sustain disabled. -/
def autoStop (t0 : Rat) (alg : Algorithm) (m c : OpRun) : Option Moment :=
  match alg with
  | .fm => if c.egt then none else some { base := t0, dur := c.tail }
  | .additive => if m.egt || c.egt then none else some { base := t0, dur := m.tail.max c.tail }

/-- The level factor of the modulator: the channel and velocity factors only where it is heard (R188). -/
def modulatorFactor (alg : Algorithm) (common : RTerm) : RTerm :=
  match alg with
  | .additive => common
  | .fm => .rat 1

/-- `buildVoice(ch, note, vel, T, P)` (R185 to R191). -/
def buildVoice (p : Params) (c : Channel) (k : Key) (vel : Data7) (t : Rat) (patch : Patch) : Voice :=
  let common := commonFactor c vel
  let m := buildOp p patch.m patch.fb k.note (modulatorFactor patch.alg common)
  let r := buildOp p patch.c 0#3 k.note common
  { key := k
    t0 := t
    alg := patch.alg
    opM := m
    opC := r
    bend := [(t, c.bend)]
    gL := .panL c.pan
    gR := .panR c.pan
    rel := none
    hs := none
    stop := autoStop t patch.alg m r
    phM := .rat 0
    phC := .rat 0 }

/-! ## The two commands -/

/-- NOTE_OFF at play-time `t` (R192): dropped when late (R181), else purge and release. -/
def State.noteOff (s : State) (k : Key) (t : Rat) : State :=
  if s.late t then s else s.purge.releaseKey k t

/-- Steps 3 to 8 of NOTE_ON (R180): a note that is on time and has a velocity. -/
def State.allocate (s : State) (k : Key) (vel : Data7) (t : Rat) : State :=
  let p := s.purge
  let patch := p.selectPatch k.ch k.note
  let r := ((p.retrigger k t).evict t).fetchTable patch.m.ws patch.fb |>.fetchTable patch.c.ws 0#3
  { r with vt := r.vt ++ [buildVoice s.par (s.chan k.ch) k vel t patch] }

/-- NOTE_ON at play-time `t` (R180): dropped when late (R181), NOTE_OFF for velocity 0 (R182), else an allocation. -/
def State.noteOn (s : State) (k : Key) (vel : Data7) (t : Rat) : State :=
  if s.late t then s
  else if vel = 0#7 then s.noteOff k t
  else s.allocate k vel t

/-- NOTE_OFF (R192); `d2` ignored. -/
def execNoteOff (ch : Chan) (note : Data7) (t : TimeField) (s : State) : Host.Outcome State Fault Refusal :=
  .next (s.noteOff { ch := ch, note := note } (playTime t))

/-- NOTE_ON (R180). -/
def execNoteOn (ch : Chan) (note vel : Data7) (t : TimeField) (s : State) : Host.Outcome State Fault Refusal :=
  .next (s.noteOn { ch := ch, note := note } vel (playTime t))

end Sys2Proof.Machine
end

