-- ==== Sys2Proof/Machine/PatchPort.lean ====
section
/-! DEFINITION. The meaning of PATCH_WR, the patch-port write (20_memory.md R43, R52, R56). -/

namespace Sys2Proof.Machine

/-- PATCH_WR (R43): `PM[space][idx] <- {valid, unpack(rec)}`; refused while a voice is unfinished (R56, R362). -/
def execPatchWr (space : Space) (idx : Data7) (valid : Bool) (patch : Patch) (s : State) :
    Host.Outcome State Fault Refusal :=
  if s.holdsUnfinished then .refused .patchWriteWhileUnfinished
  else .next (s.patchWrite space idx { valid := valid, patch := patch })

end Sys2Proof.Machine
end

