-- ==== Sys2Proof/Machine/SystemCommands.lean ====
section
/-! DEFINITION. The meanings of the system commands (46_system_commands.md R260 to R265). None reads `T`. -/

namespace Sys2Proof.Machine

/-- ALL_STOP after its purge: every registry voice and every tail hard-stopped at `clk` (R261). -/
def State.silence (s : State) : State :=
  { s with
    vt := []
    tails := (s.tails ++ s.vt).map (·.hardStoppedTail s.par s.clk) }

/-- ALL_STOP (R261). -/
def execAllStop (s : State) : Host.Outcome State Fault Refusal := .next s.purge.silence

/-- CH_RESET (R262): all five fields of every channel; voices untouched. -/
def execChReset (s : State) : Host.Outcome State Fault Refusal :=
  .next { s with ch := Vector.replicate 16 s.par.chReset }

/-- MVOL (R263): `MVOL <- min(vol16, 0x8000) / 0x8000`. -/
def execMvol (vol16 : BitVec 16) (s : State) : Host.Outcome State Fault Refusal :=
  .next { s with mvol := masterVolume vol16 }

/-- DEV_ATTACH (R264): a new device and an empty cache, a `nop` for the device already attached; refused for a new
device while a voice is unfinished (R363). -/
def execDevAttach (handle : BitVec 16) (s : State) : Host.Outcome State Fault Refusal :=
  if handle = s.dev then .next s
  else if s.holdsUnfinished then .refused .deviceChangeWhileUnfinished
  else .next { s with dev := handle, wtc := [] }

/-- BANK_CLR (R265): the valid bits of the chosen spaces become 0, a `nop` with neither bit set; refused while a voice
is unfinished, whatever its operands (R56, R265, R362; log 13). -/
def execBankClr (mel perc : Bool) (s : State) : Host.Outcome State Fault Refusal :=
  if s.holdsUnfinished then .refused .bankClearWhileUnfinished
  else .next { s with
    pmMel := if mel then s.pmMel.clearValid else s.pmMel
    pmPerc := if perc then s.pmPerc.clearValid else s.pmPerc }

end Sys2Proof.Machine
end

