-- ==== Sys2Proof/Machine/Dispatch.lean ====
section
/-! DEFINITION. One arm per instruction: the command agent's dispatch (10_state.md R10 a). -/

namespace Sys2Proof.Machine

def exec (i : Instr) (s : State) : Host.Outcome State Fault Refusal :=
  match i with
  | .noteOff ch note _ t => Sys2Proof.Machine.execNoteOff ch note t s
  | .noteOn ch note vel t => Sys2Proof.Machine.execNoteOn ch note vel t s
  | .ccVolume ch val _ => Sys2Proof.Machine.execCcVolume ch val s
  | .ccPan ch val _ => Sys2Proof.Machine.execCcPan ch val s
  | .ccExpr ch val _ => Sys2Proof.Machine.execCcExpr ch val s
  | .ccReset ch _ t => Sys2Proof.Machine.execCcReset ch t s
  | .ccLoopStart _ _ _ => Sys2Proof.Machine.execCcLoopStart s
  | .ccLoopEnd _ _ _ => Sys2Proof.Machine.execCcLoopEnd s
  | .ccOther _ _ _ _ => Sys2Proof.Machine.execCcOther s
  | .progChange ch prog _ _ => Sys2Proof.Machine.execProgChange ch prog s
  | .pitchBend ch lsb msb t => Sys2Proof.Machine.execPitchBend ch lsb msb t s
  | .allStop _ => Sys2Proof.Machine.execAllStop s
  | .chReset _ => Sys2Proof.Machine.execChReset s
  | .mvol vol16 _ => Sys2Proof.Machine.execMvol vol16 s
  | .devAttach handle _ => Sys2Proof.Machine.execDevAttach handle s
  | .bankClr mel perc _ => Sys2Proof.Machine.execBankClr mel perc s
  | .patchWr space idx valid patch => Sys2Proof.Machine.execPatchWr space idx valid patch s

end Sys2Proof.Machine
end

