-- ==== Sys2Proof/Machine/Step.lean ====
section
/-! DEFINITION. One step of the system: the command agent executes the oldest waiting word; with none waiting, the
other agents act (20_memory.md R54, 60_exceptions.md R326; log 15). -/

namespace Sys2Proof.Machine

/-- One step. A waiting word is decoded and executed, atomically; a reserved encoding is refused (R86, R89). -/
def step (s : State) : Host.Outcome State Fault Refusal :=
  match s.fetch with
  | none => s.attend
  | some (w, s') =>
    match decode w with
    | .ok i => exec i s'
    | .error r => .refused (.reserved r)

/-- The state in which the word of a table row waits first on its port, so that the next step executes it: a command
arrives from outside, none is stored in the block (R13; log 16). -/
def State.withFetchWord (s : State) (nbits w : Nat) : State := { s with port := tableWord nbits w :: s.port }

end Sys2Proof.Machine
end

