-- ==== Sys2Proof/Machine/Numerics.lean ====
section
/-! DEFINITION. What a real-number formula denotes: its value in a numerics configuration (41_param_translator.md
R132), and the waveform tables it looks up (42_waveform.md R140 to R152), written once over any configuration. The
reference configuration is the exact reals; binary64 is the one R132 names for an executable model. -/

namespace Sys2Proof.Machine

/-- A numerics configuration (R132): the operations of the formulas over some number type, and the open parameters
`ENV_K`, `FM_DEPTH` and `PAN_LAW` of R5. -/
structure Numerics (α : Type) where
  ofRat : Rat → α
  pi : α
  add : α → α → α
  sub : α → α → α
  neg : α → α
  mul : α → α → α
  div : α → α → α
  pow2 : α → α
  pow10 : α → α
  exp : α → α
  sin : α → α
  floor : α → Int
  lt : α → α → Bool
  envK : α
  fmDepth : α → α → α
  panLaw : Data7 → α × α

section
variable {α : Type}

/-- `frac(x) = x − floor(x)` (R8). -/
def Numerics.frac (N : Numerics α) (x : α) : α := N.sub x (N.ofRat (N.floor x : Rat))

/-- `abs(x)` (R8). -/
def Numerics.abs (N : Numerics α) (x : α) : α := if N.lt x (N.ofRat 0) then N.neg x else x

/-- `max(x, y)` (R8). -/
def Numerics.max (N : Numerics α) (x y : α) : α := if N.lt x y then y else x

/-- `sin(2π p)`, the sine of a phase in cycles (R141). -/
def Numerics.sineOf (N : Numerics α) (p : α) : α := N.sin (N.mul (N.mul (N.ofRat 2) N.pi) p)

/-- `shape_s(p)`: the four base shapes (R141). -/
def Numerics.shape (N : Numerics α) (s : BitVec 2) (p : α) : α :=
  match s.toNat with
  | 0 => N.sineOf p
  | 1 => if N.lt p (N.ofRat (1 / 2)) then N.sineOf p else N.ofRat 0
  | 2 => N.abs (N.sineOf p)
  | _ => if N.lt (N.frac (N.mul (N.ofRat 2) p)) (N.ofRat (1 / 2)) then N.abs (N.sineOf p) else N.ofRat 0

/-- `beta(fb)` in cycles: `1 / 2^(9 − fb)` (R143). -/
def betaCycles (fb : BitVec 3) : Rat := 1 / 2 ^ (9 - fb.toNat)

/-- One sample of the feedback build, from the two samples before it (R144). -/
def Numerics.fbSample (N : Numerics α) (wtN : Nat) (s : BitVec 2) (fb : BitVec 3) (k : Nat) (y1 y2 : α) : α :=
  N.shape s (N.frac (N.add (N.div (N.ofRat k) (N.ofRat wtN))
    (N.div (N.mul (N.ofRat (betaCycles fb)) (N.add y1 y2)) (N.ofRat 2))))

/-- One cycle of the feedback build over the sample numbers `ks`: its samples and the two last ones (R144). -/
def Numerics.fbCycle (N : Numerics α) (wtN : Nat) (s : BitVec 2) (fb : BitVec 3) :
    List Nat → α → α → List α × α × α
  | [], y1, y2 => ([], y1, y2)
  | k :: ks, y1, y2 =>
    let y := N.fbSample wtN s fb k y1 y2
    let r := N.fbCycle wtN s fb ks y y1
    (y :: r.1, r.2)

/-- The cycles of the feedback build: `c` priming cycles, then the one kept (R144, R145). -/
def Numerics.fbKept (N : Numerics α) (wtN : Nat) (s : BitVec 2) (fb : BitVec 3) : Nat → α → α → List α
  | 0, y1, y2 => (N.fbCycle wtN s fb (List.range wtN) y1 y2).1
  | c + 1, y1, y2 =>
    let r := N.fbCycle wtN s fb (List.range wtN) y1 y2
    N.fbKept wtN s fb c r.2.1 r.2.2

/-- `WT(s, fb)` (R150): sampled shapes without feedback, `buildFb` with it. -/
def Numerics.waveTable (N : Numerics α) (wtN wtPrime : Nat) (s : BitVec 2) (fb : BitVec 3) : List α :=
  if fb = 0#3 then (List.range wtN).map fun (k : Nat) => N.shape s (N.div (N.ofRat k) (N.ofRat wtN))
  else N.fbKept wtN s fb wtPrime (N.ofRat 0) (N.ofRat 0)

/-- The index of the lookup: `floor(frac(ph) · WT_N)` (R151). -/
def Numerics.waveIndex (N : Numerics α) (wtN : Nat) (ph : α) : Nat :=
  (N.floor (N.mul (N.frac ph) (N.ofRat (wtN : Rat)))).toNat

/-- `wave(s, fb, ph)` (R151): truncating lookup without interpolation. -/
def Numerics.wave (N : Numerics α) (wtN wtPrime : Nat) (s : BitVec 2) (fb : BitVec 3) (ph : α) : α :=
  (N.waveTable wtN wtPrime s fb).getD (N.waveIndex wtN ph) (N.ofRat 0)

/-- The value of a formula in a numerics configuration, one operation per operator of the formula (R132). -/
def RTerm.evalIn (N : Numerics α) : RTerm → α
  | .rat q => N.ofRat q
  | .pi => N.pi
  | .add a b => N.add (a.evalIn N) (b.evalIn N)
  | .sub a b => N.sub (a.evalIn N) (b.evalIn N)
  | .neg a => N.neg (a.evalIn N)
  | .mul a b => N.mul (a.evalIn N) (b.evalIn N)
  | .div a b => N.div (a.evalIn N) (b.evalIn N)
  | .max a b => N.max (a.evalIn N) (b.evalIn N)
  | .pow2 a => N.pow2 (a.evalIn N)
  | .pow10 a => N.pow10 (a.evalIn N)
  | .exp a => N.exp (a.evalIn N)
  | .sin a => N.sin (a.evalIn N)
  | .wave n c s fb ph => N.wave n c s fb (ph.evalIn N)
  | .envK => N.envK
  | .fmDepth a b => N.fmDepth (a.evalIn N) (b.evalIn N)
  | .panL p => (N.panLaw p).1
  | .panR p => (N.panLaw p).2

end

/-- An interpretation of the open parameters over the reals: `ENV_K`, `FM_DEPTH` and `PAN_LAW` (R5). Statements
quantify over it (log 4, log 6, log 7). -/
structure OpenFunctions where
  envK : ℝ
  fmDepth : ℝ → ℝ → ℝ
  panLaw : Data7 → ℝ × ℝ

/-- The reference semantics: the exact reals (R7, R132). It is the meaning of the formulas, not a part of the step,
so nothing that runs depends on it. -/
noncomputable def Numerics.exact (F : OpenFunctions) : Numerics ℝ where
  ofRat q := (q : ℝ)
  pi := Real.pi
  add a b := a + b
  sub a b := a - b
  neg a := -a
  mul a b := a * b
  div a b := a / b
  pow2 a := (2 : ℝ) ^ a
  pow10 a := (10 : ℝ) ^ a
  exp a := Real.exp a
  sin a := Real.sin a
  floor a := ⌊a⌋
  lt a b := decide (a < b)
  envK := F.envK
  fmDepth := F.fmDepth
  panLaw := F.panLaw

/-- The exact real number a formula denotes (R7). -/
noncomputable def RTerm.value (F : OpenFunctions) (x : RTerm) : ℝ := x.evalIn (Numerics.exact F)

/-- The suggested `PAN_LAW`: equal power (R190). DESIGN CHOICE of the spec (D35); no step uses it. -/
noncomputable def equalPower (pan : Data7) : ℝ × ℝ :=
  (Real.cos ((pan.toNat : ℝ) / 127 * (Real.pi / 2)), Real.sin ((pan.toNat : ℝ) / 127 * (Real.pi / 2)))

/-- The suggested `PAN_LAW` in binary64 (R190). DESIGN CHOICE of the spec (D35); no step uses it (log 7). -/
def equalPower64 (pan : Data7) : Float × Float :=
  let x := Float.ofNat pan.toNat / 127 * (3.141592653589793 / 2)
  (Float.cos x, Float.sin x)

/-- The binary64 configuration that R132 names for an executable model, for any `ENV_K`, `FM_DEPTH` and `PAN_LAW`. No
statement uses it: "never through a particular binary64 result" (R132; log 27). -/
def Numerics.binary64 (envK : Float) (fmDepth : Float → Float → Float) (panLaw : Data7 → Float × Float) :
    Numerics Float where
  ofRat q := Float.ofInt q.num / Float.ofInt (q.den : Int)
  pi := 3.141592653589793
  add a b := a + b
  sub a b := a - b
  neg a := -a
  mul a b := a * b
  div a b := a / b
  pow2 a := Float.pow 2 a
  pow10 a := Float.pow 10 a
  exp a := Float.exp a
  sin a := Float.sin a
  floor a := (Float.floor a).toInt64.toInt
  lt a b := decide (a < b)
  envK := envK
  fmDepth := fmDepth
  panLaw := panLaw

end Sys2Proof.Machine
end

