-- ==== Sys2Proof/Safety.lean ====
section
/-! DEFINITION. What counts as a good state, and the terms the statements use: the invariants the rules name (R19 to
R22, R24, R196, R281), frames, the play-time a word carries, and the rules' formulas over the real numbers. -/

namespace Sys2Proof.Machine

/-! ## Voices -/

/-- The breakpoints are "non-empty", "strictly ascending in time", and the first is at `T0` (R19, R172). -/
abbrev Voice.bendOk (v : Voice) : Prop :=
  v.bend.head?.map Prod.fst = some v.t0 ∧ (v.bend.map Prod.fst).Pairwise (· < ·)

/-- The durations of an operator are positive and share one key-scale exponent (R130, R230). -/
abbrev OpRun.ok (o : OpRun) : Prop :=
  0 < o.attack.coef ∧ 0 < o.decay.coef ∧ 0 < o.release.coef ∧ o.attack.k = o.decay.k ∧ o.decay.k = o.release.k

/-- What holds of every voice from its NOTE_ON to its removal (R19, R20); both phases are zero up to its first active
tick, the first at or after `T0` (R221, R226). -/
abbrev Voice.ok (p : Params) (clk : Rat) (v : Voice) : Prop :=
  v.bendOk ∧ v.opM.ok ∧ v.opC.ok ∧ v.opC.fb = 0#3 ∧ (clk < v.t0 + 1 / p.fs → v.phM = .rat 0 ∧ v.phC = .rat 0)

/-- A voice of `VT`: no release, no hard-stop, and no stop but the auto-stop (R21 c). -/
abbrev Voice.live (v : Voice) : Prop :=
  v.rel = none ∧ v.hs = none ∧ v.stop = autoStop v.t0 v.alg v.opM v.opC

/-- A voice of `TAILS`: it has a stop time (R22), and a hard-stopped one ends with its fade at the latest (R186). -/
abbrev Voice.leaving (p : Params) (v : Voice) : Prop :=
  v.stop.isSome ∧ ∀ h ∈ v.hs, stoppedBy v.stop (h + p.hardStopS) = true

/-! ## Songs and the host -/

/-- The bytes of a sequence event are in their field's range: a Data7 is 0 to 127 (R73), and the second byte of a
program-change may be any pad (R79). -/
abbrev Event.legal (e : Event) : Prop :=
  e.d1.getLsbD 7 = false ∧ (e.kind = .programChange ∨ e.d2.getLsbD 7 = false)

/-- The events of a song come "in non-decreasing time order" (R58), none before time 0. -/
abbrev songOk (seq : List Event) : Prop :=
  (seq.map Event.time).Pairwise (· ≤ ·) ∧ ∀ e ∈ seq, 0 ≤ e.time

/-- The host's indices lie in its song, its loop fields are those of the song (R285, R286), and its timer runs in
Playing only (R281, R288, R301). For a song in order, no event lies past its end, the loop is not negative, and
neither the anchor nor the elapsed time of a pause lies before the machine started (R283, R284, R297). -/
abbrev Scheduler.ok (clk : Rat) (h : Scheduler) : Prop :=
  h.cursor ≤ h.seq.length ∧ h.loopStartIdx ≤ h.loopEndIdx ∧ h.loopEndIdx ≤ h.seq.length ∧
    (h.timer.isSome ↔ h.mode = .playing) ∧ h.scan = h ∧
    (songOk h.seq → 0 ≤ h.loopDur ∧ 0 ≤ h.anchor ∧ (∀ e ∈ h.seq, e.time ≤ h.total) ∧
      (h.mode = .paused → h.pausedElapsed ≤ clk))

/-! ## The invariant -/

/-- The invariant of the machine: the parameters in range (R5), at most nine voices in `VT` with distinct keys and
without release or hard-stop (R21), every tail with a stop time (R22), the patch memories canonical, `MVOL` one of the
32769 values of R15, the cache holding tables of the current device only (R24, R57). -/
structure State.Inv (s : State) : Prop where
  par : s.par.wf
  voiceLimit : s.vt.length ≤ Config.voiceLimit
  keys : (s.vt.map Voice.key).Nodup
  live : ∀ v ∈ s.vt, v.live
  leaving : ∀ v ∈ s.tails, v.leaving s.par
  voices : ∀ v ∈ s.vt ++ s.tails, v.ok s.par s.clk
  melodic : s.pmMel.wf
  percussion : s.pmPerc.wf
  volume : 0 ≤ s.mvol ∧ s.mvol ≤ 1 ∧ (s.mvol * 32768).den = 1
  cache : s.wtc.Nodup ∧ ∀ k ∈ s.wtc, k.dev = s.dev
  host : s.sched.ok s.clk

/-! ## Frames -/

/-- Every entry of both patch memories reads as before. -/
def State.SameMemory (s s' : State) : Prop := ∀ sp i, (s'.patches sp).read i = (s.patches sp).read i

/-- The registers and memories no note command writes: parameters, clock, volume, device, channels, memories, output,
host, ports (R180, R192). -/
def State.SameButVoices (s s' : State) : Prop :=
  s' = { s with vt := s'.vt, tails := s'.tails, wtc := s'.wtc }

/-- Between `s` and `s'` only `CH[c]` is written, with `x`. -/
def State.ChannelWritten (s s' : State) (c : Chan) (x : Channel) : Prop :=
  s'.chan c = x ∧ (∀ d, d ≠ c → s'.chan d = s.chan d) ∧ s.SameMemory s' ∧ s' = { s with ch := s'.ch }

/-- Between `s` and `s'` only `CH[c]` is written, with `x`, and the breakpoints of the registry voices of channel `c`
(R172): from `t` on, every such voice has the detune `cents`, unless `t` is past. -/
def State.ChannelRetuned (s s' : State) (c : Chan) (x : Channel) (t cents : Rat) : Prop :=
  s'.chan c = x ∧ (∀ d, d ≠ c → s'.chan d = s.chan d) ∧ s.SameMemory s' ∧
    s' = { s with ch := s'.ch, vt := s'.vt } ∧
    s'.vt = if t < s.clk then s.vt else s.vt.map fun v =>
      if v.key.ch = c then
        if t ≤ v.t0 then { v with bend := [(v.t0, cents)] }
        else { v with bend := v.bend.filter (fun b => decide (b.1 < t)) ++ [(t, cents)] }
      else v

/-- The channel of a channel command (R160, R170, R171), none for the other commands. -/
def channelOf : Instr → Option Chan
  | .ccVolume ch _ _ => some ch
  | .ccPan ch _ _ => some ch
  | .ccExpr ch _ _ => some ch
  | .ccReset ch _ _ => some ch
  | .ccLoopStart ch _ _ => some ch
  | .ccLoopEnd ch _ _ => some ch
  | .ccOther ch _ _ _ => some ch
  | .progChange ch _ _ _ => some ch
  | .pitchBend ch _ _ _ => some ch
  | .noteOff _ _ _ _ => none
  | .noteOn _ _ _ _ => none
  | .allStop _ => none
  | .chReset _ => none
  | .mvol _ _ => none
  | .devAttach _ _ => none
  | .bankClr _ _ _ => none
  | .patchWr _ _ _ _ => none

/-- Whether the host must not issue this command now: a patch or device change while a voice is unfinished
(R362, R363). -/
def State.hazard (s : State) : Instr → Bool
  | .patchWr _ _ _ _ => s.holdsUnfinished
  | .bankClr _ _ _ => s.holdsUnfinished
  | .devAttach handle _ => handle != s.dev && s.holdsUnfinished
  | _ => false

/-! ## Words and command lists -/

/-- The play-time a command-port word carries (R70, R71); 0 for a patch-port word. -/
def wordTime : PortWord → Rat
  | .command w => playTime (splitCommand w).t
  | .patch _ => 0

/-- The outcome of executing commands one after another, each atomically (R54). -/
def execAll : List Instr → State → Host.Outcome State Fault Refusal
  | [], s => .next s
  | i :: is, s =>
    match exec i s with
    | .next s' => execAll is s'
    | .fault f => .fault f
    | .refused r => .refused r

/-- The outcome `o` of a host operation with the answer `r`: the host has moved and its words, in order, have joined
those that wait on the ports (R13, R280), and nothing else changes; refused where a play-time does not fit its field
(93_implementation_defined.md U4). -/
def State.HostAnswers (s : State) (o : Host.Outcome State Fault Refusal) (r : Option (Scheduler × List PortWord)) :
    Prop :=
  match r with
  | some (h, ws) => o = .next { s with sched := h, port := s.port ++ ws }
  | none => o = .refused .playTimeOutOfField

/-- `i` is the least index of the song at which `p` holds. -/
def IsFirst (p : Nat → Event → Prop) (seq : List Event) (i : Nat) : Prop :=
  (∃ e, seq[i]? = some e ∧ p i e) ∧ ∀ k, k < i → ∀ e, seq[k]? = some e → ¬ p k e

/-! ## The rules' formulas over the reals

Transcribed from 41_param_translator.md and 45_audio_path.md without the terms of the machine; the statements hold the
machine's terms against them. -/

/-- `attackSeconds(rate)` (R121). -/
noncomputable def realAttackSeconds (rate : BitVec 4) : ℝ :=
  if rate = 0#4 then 10 else 2.826 / 2 ^ (rate.toNat - 1)

/-- `decaySeconds(rate)` and `releaseSeconds(rate)` (R122, R123). -/
noncomputable def realDecaySeconds (rate : BitVec 4) : ℝ :=
  if rate = 0#4 then 30 else 39.28 / 2 ^ (rate.toNat - 1)

/-- `sustainLevel(field)` (R124). -/
noncomputable def realSustainLevel (field : BitVec 4) : ℝ :=
  if field = 0#4 then 1 else if field = 15#4 then 0.00002 else (10 : ℝ) ^ (-3 * (field.toNat : ℝ) / 20)

/-- `totalLevel(field)` (R125). -/
noncomputable def realTotalLevel (field : BitVec 6) : ℝ :=
  if field = 0#6 then 1 else if field = 63#6 then 0.005 else (10 : ℝ) ^ (-0.75 * (field.toNat : ℝ) / 20)

/-- `noteFrequency(note) * multiplier(MULT)` (R126, R127, R187). -/
noncomputable def realFrequency (note : Data7) (mult : BitVec 4) : ℝ :=
  440 * (2 : ℝ) ^ (((note.toNat : ℝ) - 69) / 12) * if mult = 0#4 then 0.5 else (mult.toNat : ℝ)

/-- `KSL_DB` (R128). -/
noncomputable def realKslDb (k : BitVec 2) : ℝ :=
  if k = 0#2 then 0 else if k = 1#2 then 3 else if k = 2#2 then 1.5 else 6

/-- `keyScaleLevel(k, note)` for a reference note (R128). -/
noncomputable def realKeyScaleLevel (ref : Nat) (k : BitVec 2) (note : Data7) : ℝ :=
  (10 : ℝ) ^ (-(realKslDb k) * max 0 (((note.toNat : ℝ) - ref) / 12) / 20)

/-- `keyScaleRate(flagSet, note)` (R129). -/
noncomputable def realKeyScaleRate (ksr : Bool) (note : Data7) : ℝ :=
  if ksr then (2 : ℝ) ^ (max 0 ((note.toNat : ℝ) - 36) / 24) else 1

/-- The constants of an operator at note-on (R130, R187). -/
structure OpRun.Follows (F : OpenFunctions) (w : OpRun) (o : Operator) (fb : BitVec 3) (note : Data7) : Prop where
  f : w.f.value F = realFrequency note o.mult
  ws : w.ws = o.ws
  fb : w.fb = fb
  attack : w.attack.term.value F = realAttackSeconds o.ar / realKeyScaleRate o.ksr note
  decay : w.decay.term.value F = realDecaySeconds o.dr / realKeyScaleRate o.ksr note
  release : w.release.term.value F = realDecaySeconds o.rr / realKeyScaleRate o.ksr note
  sustain : w.sustain.value F = realSustainLevel o.sl
  flags : w.egt = o.egt ∧ w.am = o.am ∧ w.vib = o.vib

/-- `env0(X, u)` for real constants `L`, `S`, `A`, `D`, `R` and `ENV_K` (R230, R231, R232). -/
noncomputable def realEnv0 (K L S A D R : ℝ) (egt : Bool) (u : ℝ) : ℝ :=
  let gA := L * (1 - Real.exp (-K))
  let gD := L * S + (gA - L * S) * Real.exp (-K)
  if u < A then L * (1 - Real.exp (-u / (A / K)))
  else if u < A + D ∨ egt = true then L * S + (gA - L * S) * Real.exp (-(u - A) / (D / K))
  else 0.00002 + (gD - 0.00002) * Real.exp (-(u - A - D) / (R / K))

/-- `env0` of an operator record (R230). -/
noncomputable def OpRun.realEnv0 (F : OpenFunctions) (o : OpRun) (u : ℝ) : ℝ :=
  Machine.realEnv0 F.envK (o.level.value F) (o.sustain.value F) (o.attack.term.value F) (o.decay.term.value F)
    (o.release.term.value F) o.egt u

end Sys2Proof.Machine
end

