-- ==== Sys2Proof/Certificates/Slice0/Obligations.lean ====
section
/-! DEFINITION. The statements for the provers. Each is about the machine in every state, or in every state with the
invariant its hypotheses name; a value the spec leaves open stays open in it. -/

open Sys2Proof Sys2Proof.Machine

/-- Words written out from the encoding tables decode to their commands. (30_encoding.md R72 to R85, 20_memory.md R43,
R44) The operands that a command ignores hold the bits of the word, the model's reading (log 9). -/
def Obligations.DecodesWrittenWords : Prop :=
  decode (.command 0x0000000100000000803C00#88) = .ok (.noteOff 0#4 60#7 0#7 0x100000000#64) ∧
  decode (.command 0x000000008000000099267F#88) = .ok (.noteOn 9#4 38#7 127#7 0x80000000#64) ∧
  decode (.command 0x0000000000000000B3075A#88) = .ok (.ccVolume 3#4 90#7 0#64) ∧
  decode (.command 0x0000000500000000B27900#88) = .ok (.ccReset 2#4 0#7 0x500000000#64) ∧
  decode (.command 0x0000000000000000B0407F#88) = .ok (.ccOther 0#4 64#7 127#7 0#64) ∧
  decode (.command 0x0000000000000000C451FF#88) = .ok (.progChange 4#4 81#7 0xFF#8 0#64) ∧
  decode (.command 0x0000000200000000E00060#88) = .ok (.pitchBend 0#4 0#7 0x60#7 0x200000000#64) ∧
  decode (.command 0x0000000000000000100000#88) = .ok (.allStop 0#64) ∧
  decode (.command 0x0000000000000000304000#88) = .ok (.mvol 0x4000#16 0#64) ∧
  decode (.command 0x0000000000000000400001#88) = .ok (.devAttach 1#16 0#64) ∧
  decode (.command 0x0000000000000000500002#88) = .ok (.bankClr false true 0#64) ∧
  decode (.patch 0xFF800F02001F81F003FF00FFDF#104) = .ok (.patchWr .percussion 127#7 true
    { m := { am := true, vib := true, egt := false, ksr := true, mult := 15, ksl := 3, tl := 63, ar := 0, dr := 0,
             sl := 15, rr := 15, ws := 3 }
      c := { am := true, vib := true, egt := true, ksr := true, mult := 0, ksl := 2, tl := 1, ar := 1, dr := 15,
             sl := 0, rr := 0, ws := 2 }
      fb := 7, alg := .additive })

/-- Decoding the word that spells a well-formed instruction gives the instruction back. (30_encoding.md R72 to R85,
R89, 20_memory.md R43 to R45) -/
def Obligations.DecodeEncode : Prop :=
  ∀ i : Instr, i.wellFormed = true → decode (encode i) = .ok i

/-- Every word that decodes is the word of its well-formed instruction, which keeps the bits its command ignores (log
9). (30_encoding.md R89, 20_memory.md R43 to R45) That no two words decode to one instruction rests on the model's
choice that an instruction keeps the bits its command ignores (log 9). -/
def Obligations.EncodeDecode : Prop :=
  ∀ (w : PortWord) (i : Instr), decode w = .ok i → encode i = w ∧ i.wellFormed = true

/-- Exactly the reserved words are refused, and the host issues none for events in their field's range. (R86) For any
other event the word is reserved in the model (log 26; DispatchRoundsUp). -/
def Obligations.ReservedWords : Prop :=
  (∀ w : CommandWord, (∃ r, decode (.command w) = .error r) ↔
    let op := (w.extractLsb' 20 4).toNat
    op ∈ [0x0, 0x6, 0x7, 0xA, 0xD, 0xF] ∨
    (op ∈ [0x8, 0x9, 0xB, 0xE] ∧ (w.getLsbD 15 = true ∨ w.getLsbD 7 = true)) ∨
    (op = 0xC ∧ w.getLsbD 15 = true) ∨
    (op ∈ [0x1, 0x2] ∧ w.extractLsb' 0 20 ≠ 0#20) ∨
    (op ∈ [0x3, 0x4] ∧ w.extractLsb' 16 4 ≠ 0#4) ∨
    (op = 0x5 ∧ w.extractLsb' 2 18 ≠ 0#18)) ∧
  (∀ w : PatchWord, (∃ r, decode (.patch w) = .error r) ↔
    w.extractLsb' 88 7 ≠ 0#7 ∨ w.extractLsb' 34 6 ≠ 0#6 ∨ w.extractLsb' 74 6 ≠ 0#6 ∨ w.extractLsb' 84 4 ≠ 0#4) ∧
  (∀ (s : State) (w : PortWord) (rest : List PortWord) (r : Reserved), s.port = w :: rest → decode w = .error r →
    step s = .refused (.reserved r)) ∧
  (∀ (now anchor : Rat) (e : Event) (w : PortWord), e.legal → dispatchEvent now anchor e = some w →
    ∃ i, decode w = .ok i)

/-- A patch record holds the fields of its patch at the bits of R44, and pack and unpack are inverse. (R44, R45) -/
def Obligations.PatchRecordLayout : Prop :=
  (∀ r : RecordWord, unpack r =
    { m := { am := r.getLsbD 7, vib := r.getLsbD 6, egt := r.getLsbD 5, ksr := r.getLsbD 4, mult := r.extractLsb' 0 4,
             ksl := r.extractLsb' 14 2, tl := r.extractLsb' 8 6, ar := r.extractLsb' 20 4, dr := r.extractLsb' 16 4,
             sl := r.extractLsb' 28 4, rr := r.extractLsb' 24 4, ws := r.extractLsb' 32 2 }
      c := { am := r.getLsbD 47, vib := r.getLsbD 46, egt := r.getLsbD 45, ksr := r.getLsbD 44,
             mult := r.extractLsb' 40 4, ksl := r.extractLsb' 54 2, tl := r.extractLsb' 48 6,
             ar := r.extractLsb' 60 4, dr := r.extractLsb' 56 4, sl := r.extractLsb' 68 4,
             rr := r.extractLsb' 64 4, ws := r.extractLsb' 72 2 }
      fb := r.extractLsb' 81 3
      alg := if r.getLsbD 80 then .additive else .fm }) ∧
  (∀ p : Patch, unpack (pack p) = p ∧
    (pack p).extractLsb' 34 6 = 0#6 ∧ (pack p).extractLsb' 74 6 = 0#6 ∧ (pack p).extractLsb' 84 4 = 0#4) ∧
  (∀ r : RecordWord, r.extractLsb' 34 6 = 0#6 → r.extractLsb' 74 6 = 0#6 → r.extractLsb' 84 4 = 0#4 →
    pack (unpack r) = r) ∧
  (∀ r : RecordWord, r.extractLsb' 34 6 ≠ 0#6 ∨ r.extractLsb' 74 6 ≠ 0#6 ∨ r.extractLsb' 84 4 ≠ 0#4 →
    ∀ w : PatchWord, w.extractLsb' 0 88 = r → decode (.patch w) = .error .patchBits) ∧
  pack { m := { am := false, vib := false, egt := true, ksr := false, mult := 1, ksl := 0, tl := 20, ar := 15, dr := 4,
                sl := 2, rr := 6, ws := 0 }
         c := { am := false, vib := false, egt := true, ksr := false, mult := 1, ksl := 0, tl := 0, ar := 15, dr := 4,
                sl := 2, rr := 6, ws := 0 }
         fb := 3, alg := .fm } = 0x060026F400210026F41421#88

/-- A step executes the instruction the oldest waiting word decodes to; a due input goes before a due pump timer (the
model's choice, log 15). (20_memory.md R54, 10_state.md R13, 30_encoding.md R89) That a due input is delivered before
a due pump timer fires, and only once no word waits, is the model's choice, which R13 and R54 leave open (log 15). -/
def Obligations.StepRunsDecodedInstr : Prop :=
  (∀ (s : State) (w : PortWord) (rest : List PortWord) (i : Instr), s.port = w :: rest → decode w = .ok i →
    i.wellFormed = true → step s = exec i { s with port := rest }) ∧
  (∀ (s : State) (n : Nat) (x : Input) (rest : List (Nat × Input)), s.port = [] → s.env = (n, x) :: rest →
    n ≤ s.clkN → step s = ({ s with env := rest } : State).deliver x) ∧
  (∀ (s : State) (w : PortWord), s.deliver (.word w) = .next { s with port := s.port ++ [w] })

/-- Every command completes, but for the hazards of R362 and R363, which are refused by name. (60_exceptions.md R320,
46_system_commands.md R260, 70_reset_and_hazards.md R362, R363) In every state every command answers a next state,
except PATCH_WR and BANK_CLR while a voice is unfinished and DEV_ATTACH to another handle while one is, each refused
under its own name; BANK_CLR 0, 0 is refused then too, the model's literal reading of R265 (log 13). -/
def Obligations.CommandsComplete : Prop :=
  ∀ (i : Instr) (s : State),
    (s.hazard i = false → ∃ s', exec i s = .next s') ∧
    (s.hazard i = true →
      exec i s = .refused (match i with
        | .patchWr _ _ _ _ => .patchWriteWhileUnfinished
        | .bankClr _ _ _ => .bankClearWhileUnfinished
        | _ => .deviceChangeWhileUnfinished))

/-- Every step keeps the invariant: nine voices, distinct keys, tails with stop times, canonical memories.
(10_state.md R19 to R22, R24, 44_note_commands.md R196, 43_channel_commands.md R172, 47_host_scheduler.md R281) -/
def Obligations.StepKeepsInv : Prop :=
  ∀ s s' : State, s.Inv → step s = .next s' → s'.Inv

/-- The state after reset has the invariant, in its host part by the model's choice of the host's fields (log 18).
(10_state.md R21, R22, R27) That the suggested parameters are in range is the spec's and the model's choice (log 3).
R27 gives only the mode of the host: that its indices, its loop fields and its timer meet the invariant at reset rests
on the values the model chose for them (log 18). -/
def Obligations.ResetInv : Prop :=
  State.reset.Inv ∧ ∀ p : Params, p.wf → (State.resetWith p).Inv

/-- The clock is clk_n / FS, only the sample tick advances it, and nothing writes the parameters (waiting words go
first: log 15). (10_state.md R14, 00_scope.md R5, 70_reset_and_hazards.md R351, 45_audio_path.md R220) That a sample
tick happens, and a reset is delivered, only with no word waiting is the model's order of agents (log 15). That a
reset keeps the parameters is read from R5 and R351 (log 25). -/
def Obligations.ClockAndParameters : Prop :=
  (∀ s : State, s.clk = (s.clkN : Rat) / s.par.fs) ∧
  (∀ (i : Instr) (s s' : State), exec i s = .next s' → s'.clkN = s.clkN ∧ s'.par = s.par) ∧
  (∀ s s' : State, step s = .next s' → s'.par = s.par ∧
    (s'.clkN = s.clkN ∨ (s' = s.sampleTick ∧ s'.clkN = s.clkN + 1 ∧ s.port = []) ∨
      (s'.clkN = 0 ∧ s.port = [] ∧ ∃ n rest, s.env = (n, .reset) :: rest ∧ n ≤ s.clkN)))

/-- Reset puts every piece of state at the value of the table of R27, and leaves the parameters alone. (R27, R350,
R351) -/
def Obligations.ResetState : Prop :=
  let atReset (r : State) : Prop :=
    r.clkN = 0 ∧ r.mvol = 1 ∧ r.dev = 0#16 ∧ (∀ c, r.chan c = r.par.chReset) ∧
      (∀ sp i, ((r.patches sp).read i).valid = false) ∧ r.vt = [] ∧ r.tails = [] ∧ r.wtc = [] ∧
      (∀ F, r.outL.value F = 0 ∧ r.outR.value F = 0) ∧ r.sched.mode = .stopped
  (∀ p : Params, (State.resetWith p).par = p ∧ atReset (State.resetWith p)) ∧ atReset State.reset ∧
  (∀ s : State, ∃ s', s.deliver .reset = .next s' ∧ s'.par = s.par ∧ atReset s')

/-- CC_VOLUME, CC_PAN and CC_EXPR write their field of their channel and nothing else. (R161, R162, R163) -/
def Obligations.ControllerWrites : Prop :=
  ∀ (s : State) (ch : Chan) (val : Data7) (t : TimeField),
    (∃ s', exec (.ccVolume ch val t) s = .next s' ∧ s.ChannelWritten s' ch { s.chan ch with vol := val }) ∧
    (∃ s', exec (.ccPan ch val t) s = .next s' ∧ s.ChannelWritten s' ch { s.chan ch with pan := val }) ∧
    (∃ s', exec (.ccExpr ch val t) s = .next s' ∧ s.ChannelWritten s' ch { s.chan ch with expr := val })

/-- PROG_CHANGE writes the program of its channel and nothing else. (R170) -/
def Obligations.ProgramWrite : Prop :=
  ∀ (s : State) (ch : Chan) (prog : Data7) (d2 : BitVec 8) (t : TimeField),
    ∃ s', exec (.progChange ch prog d2 t) s = .next s' ∧ s.ChannelWritten s' ch { s.chan ch with prog := prog }

/-- CC_LOOP_START, CC_LOOP_END and CC_OTHER complete and change nothing. (R165, R166) -/
def Obligations.LoopMarkersAndOthersAreNops : Prop :=
  ∀ (s : State) (ch : Chan) (cc val : Data7) (t : TimeField),
    exec (.ccLoopStart ch val t) s = .next s ∧ exec (.ccLoopEnd ch val t) s = .next s ∧
    exec (.ccOther ch cc val t) s = .next s

/-- PITCH_BEND writes the channel's bend at once and re-targets the registry voices of the channel at T. (R171, R172)
-/
def Obligations.PitchBendWrites : Prop :=
  ∀ (s : State) (ch : Chan) (lsb msb : Data7) (t : TimeField),
    let cents : Rat := ((128 * msb.toNat + lsb.toNat : Nat) - 8192 : Rat) * s.par.pbRangeCents / 8192
    ∃ s', exec (.pitchBend ch lsb msb t) s = .next s' ∧
      s.ChannelRetuned s' ch { s.chan ch with bend := cents } ((t.toNat : Rat) / 2 ^ 32) cents

/-- CC_RESET resets three controllers and the bend, keeps the program, and re-targets the voices to 0 cents at T.
(R164) -/
def Obligations.ControllerReset : Prop :=
  ∀ (s : State) (ch : Chan) (val : Data7) (t : TimeField),
    ∃ s', exec (.ccReset ch val t) s = .next s' ∧
      s.ChannelRetuned s' ch
        { prog := (s.chan ch).prog, vol := s.par.chReset.vol, pan := s.par.chReset.pan, expr := s.par.chReset.expr,
          bend := 0 } ((t.toNat : Rat) / 2 ^ 32) 0

/-- After a re-target at T the voice has its old detune before T and the new one from T on. (43_channel_commands.md
R172, 45_audio_path.md R222) -/
def Obligations.RetargetDetune : Prop :=
  ∀ (v : Voice) (t cents : Rat), v.bendOk →
    (v.retargeted t cents).bendOk ∧
    ∀ u, v.t0 ≤ u → (v.retargeted t cents).bendAt u = if v.t0 < t ∧ u < t then v.bendAt u else cents

/-- A channel command completes and touches only its channel and the detune of that channel's voices.
(43_channel_commands.md R160, R173) -/
def Obligations.ChannelCommandsFrame : Prop :=
  ∀ (i : Instr) (c : Chan) (s : State), channelOf i = some c →
    ∃ s', exec i s = .next s' ∧ (∀ d, d ≠ c → s'.chan d = s.chan d) ∧ s.SameMemory s' ∧
      s' = { s with ch := s'.ch, vt := s'.vt } ∧
      List.Forall₂ (fun v v' => v' = { v with bend := v'.bend } ∧ (v.key.ch ≠ c → v' = v)) s.vt s'.vt

/-- A NOTE_ON or NOTE_OFF whose play-time is past changes nothing. (R181) -/
def Obligations.LateNotesDropped : Prop :=
  ∀ (s : State) (ch : Chan) (note d2 : Data7) (t : TimeField),
    (playTime t < s.clk →
      exec (.noteOn ch note d2 t) s = .next s ∧ exec (.noteOff ch note d2 t) s = .next s) ∧
    (playTime t = s.clk → d2 ≠ 0#7 →
      ∃ s' v, exec (.noteOn ch note d2 t) s = .next s' ∧ s'.vt.getLast? = some v ∧ v.key = ⟨ch, note⟩ ∧
        v.t0 = s.clk)

/-- A NOTE_ON with velocity 0 executes as NOTE_OFF. (R182) -/
def Obligations.VelocityZeroIsNoteOff : Prop :=
  ∀ (s : State) (ch : Chan) (note d2 : Data7) (t : TimeField),
    exec (.noteOn ch note 0#7 t) s = exec (.noteOff ch note d2 t) s

/-- NOTE_ON purges, re-triggers or evicts, and appends its new voice; each voice it takes out joins the tails.
(44_note_commands.md R180, R183, R186, R194, R195, 10_state.md R22) With at most nine registry voices (an invariant),
a velocity and T not past, NOTE_ON completes: finished voices are gone; if the registry holds the key, that voice is
taken out and hard-stopped at T; else if nine voices are left, the first is; the new voice, built from the patch
selected and the channel as they stand, is appended; its two tables are in the cache; a voice taken out whose stop
time is at or before T joins the tails as it is (R22, R186; log 11); nothing else changes. -/
def Obligations.NoteOnAllocates : Prop :=
  ∀ (s : State) (ch : Chan) (note vel : Data7) (t : TimeField),
    s.vt.length ≤ 9 → s.clk ≤ playTime t → vel ≠ 0#7 →
    let T := playTime t
    let P := s.selectPatch ch note
    let isKey : Voice → Bool := fun v => decide (v.key = ⟨ch, note⟩)
    let w := buildVoice s.par (s.chan ch) ⟨ch, note⟩ vel T P
    let live := s.vt.filter fun v => !stoppedBy v.stop s.clk
    let old := s.tails.filter fun v => !stoppedBy v.stop s.clk
    ∃ s', exec (.noteOn ch note vel t) s = .next s' ∧ s.SameMemory s' ∧ s.SameButVoices s' ∧
      (∀ k, k ∈ s'.wtc ↔ k ∈ s.wtc ∨ k = ⟨s.dev, P.m.ws, P.fb⟩ ∨ k = ⟨s.dev, P.c.ws, 0#3⟩) ∧
      match live.find? isKey with
      | some v => s'.vt = live.eraseP isKey ++ [w] ∧ s'.tails = old ++ [v.hardStoppedTail s.par T]
      | none =>
        if live.length = 9 then
          s'.vt = live.drop 1 ++ [w] ∧
            s'.tails = old ++ (live.take 1).map fun v => v.hardStoppedTail s.par T
        else s'.vt = live ++ [w] ∧ s'.tails = old

/-- Re-triggering a sounding key leaves one registry voice for it, the newest, and the prior one fading from T. (R194)
-/
def Obligations.RetriggerHardStops : Prop :=
  ∀ (s : State) (ch : Chan) (note vel : Data7) (t : TimeField) (v : Voice),
    s.vt.length ≤ 9 → (s.vt.map Voice.key).Nodup → v ∈ s.vt → v.key = ⟨ch, note⟩ → v.hs = none →
    stoppedBy v.stop (playTime t) = false → s.clk ≤ playTime t → vel ≠ 0#7 →
    ∃ s' w m, exec (.noteOn ch note vel t) s = .next s' ∧
      s'.vt = (s.vt.filter fun x => !stoppedBy x.stop s.clk && decide (x.key ≠ ⟨ch, note⟩)) ++ [w] ∧
      w.key = ⟨ch, note⟩ ∧ w.t0 = playTime t ∧
      s'.tails = (s.tails.filter fun x => !stoppedBy x.stop s.clk) ++
        [{ v with hs := some (playTime t), stop := some m }] ∧
      (v.stop = some m ∨ m = Moment.ofRat (playTime t + s.par.hardStopS)) ∧
      stoppedBy (some m) (playTime t + s.par.hardStopS) = true

/-- A run of notes on distinct keys leaves the last nine in the registry, in allocation order. (44_note_commands.md
R195, R196, 60_exceptions.md R322, 10_state.md R21) -/
def Obligations.FifoEviction : Prop :=
  ∀ (s : State) (cmds : List (Key × Data7 × TimeField)), s.vt = [] → (cmds.map Prod.fst).Nodup →
    (∀ c ∈ cmds, c.2.1 ≠ 0#7 ∧ s.clk ≤ playTime c.2.2) →
    ∃ s', execAll (cmds.map fun c => .noteOn c.1.ch c.1.note c.2.1 c.2.2) s = .next s' ∧
      s'.vt.map Voice.key = (cmds.map Prod.fst).drop (cmds.length - 9)

/-- NOTE_OFF purges and releases the registry voice of its key, which ends after the longer release tail and a margin.
(R192, R193) -/
def Obligations.NoteOffReleases : Prop :=
  ∀ (s : State) (ch : Chan) (note d2 : Data7) (t : TimeField), s.clk ≤ playTime t →
    let isKey : Voice → Bool := fun v => decide (v.key = ⟨ch, note⟩)
    let live := s.vt.filter fun v => !stoppedBy v.stop s.clk
    let old := s.tails.filter fun v => !stoppedBy v.stop s.clk
    ∃ s', exec (.noteOff ch note d2 t) s = .next s' ∧ s.SameMemory s' ∧
      s' = { s with vt := s'.vt, tails := s'.tails } ∧
      match live.find? isKey with
      | none => s'.vt = live ∧ s'.tails = old
      | some v => s'.vt = live.eraseP isKey ∧
          ∃ m, s'.tails = old ++ [{ v with rel := some (playTime t), stop := some m }] ∧
            ∀ F, m.term.value F = (playTime t : ℝ) +
              max (v.opM.release.term.value F) (v.opC.release.term.value F) + (s.par.stopMarginS : ℝ)

/-- A new voice has the key, start, algorithm, initial detune and pan gains of its NOTE_ON, and phases at zero.
(44_note_commands.md R185, R189, R190) -/
def Obligations.VoiceRecord : Prop :=
  ∀ (F : OpenFunctions) (p : Params) (c : Channel) (k : Key) (vel : Data7) (t : Rat) (P : Patch),
    let w := buildVoice p c k vel t P
    w.key = k ∧ w.t0 = t ∧ w.alg = P.alg ∧ w.bend = [(t, c.bend)] ∧
    (w.gL.value F, w.gR.value F) = F.panLaw c.pan ∧ w.rel = none ∧ w.hs = none ∧
    w.stop = autoStop t P.alg w.opM w.opC ∧ w.phM.value F = 0 ∧ w.phC.value F = 0

/-- The frequencies and key-scaled durations of a new voice are the rules' formulas over the reals. (R130, R187) -/
def Obligations.VoiceConstants : Prop :=
  ∀ (F : OpenFunctions) (p : Params) (c : Channel) (k : Key) (vel : Data7) (t : Rat) (P : Patch),
    let w := buildVoice p c k vel t P
    w.opM.Follows F P.m P.fb k.note ∧ w.opC.Follows F P.c 0#3 k.note

/-- The peak levels of a new voice multiply total level, key-scale level and, where heard, volume, expression and
velocity squared. (R188) -/
def Obligations.VoiceLevels : Prop :=
  ∀ (F : OpenFunctions) (p : Params) (c : Channel) (k : Key) (vel : Data7) (t : Rat) (P : Patch),
    let w := buildVoice p c k vel t P
    let common : ℝ := (c.vol.toNat : ℝ) / 127 * ((c.expr.toNat : ℝ) / 127) * ((vel.toNat : ℝ) / 127) ^ 2
    w.opC.level.value F = realTotalLevel P.c.tl * realKeyScaleLevel p.kslRefNote P.c.ksl k.note * common ∧
    w.opM.level.value F = realTotalLevel P.m.tl * realKeyScaleLevel p.kslRefNote P.m.ksl k.note *
      (match P.alg with
        | .additive => common
        | .fm => 1)

/-- A voice stops itself after attack, decay and release when every sounding operator has sustain disabled. (R191) -/
def Obligations.AutoStop : Prop :=
  ∀ (F : OpenFunctions) (p : Params) (c : Channel) (k : Key) (vel : Data7) (t : Rat) (P : Patch),
    let w := buildVoice p c k vel t P
    let tail : OpRun → ℝ := fun o => o.attack.term.value F + o.decay.term.value F + o.release.term.value F
    w.stop.map (fun m => m.term.value F) =
      match P.alg with
      | .fm => if P.c.egt then none else some ((t : ℝ) + tail w.opC)
      | .additive => if P.m.egt || P.c.egt then none else some ((t : ℝ) + max (tail w.opM) (tail w.opC))

/-- hardStop sets the earlier fade start and the earlier stop time, does nothing to a finished voice, and is
idempotent. (R186) -/
def Obligations.HardStopRule : Prop :=
  ∀ (F : OpenFunctions) (p : Params) (v : Voice) (t : Rat),
    (v.hardStopped p t = none ↔ ∃ m, v.stop = some m ∧ m.term.value F ≤ (t : ℝ)) ∧
    (∀ w, v.hardStopped p t = some w →
      ∃ h m, w = { v with hs := some h, stop := some m } ∧ h = v.hs.elim t (min t) ∧
        m.term.value F = (v.stop.map fun x => x.term.value F).elim ((h : ℝ) + p.hardStopS)
          (min ((h : ℝ) + p.hardStopS)) ∧
        ∀ t', t ≤ t' → w.hardStoppedTail p t' = w) ∧
    (v.hardStopped p t = none → v.hardStoppedTail p t = v) ∧
    (∀ w, v.hardStopped p t = some w → v.hardStoppedTail p t = w) ∧
    (∀ (s : State) (w : Voice), v.hardStopped s.par t = some w → (s.hardStopInto v t).tails = s.tails ++ [w])

/-- The machine compares durations and stop times exactly as the real numbers they denote. (00_scope.md R7,
41_param_translator.md R129, R130, 60_exceptions.md R323) The decision procedure for durations over a 24th power of
two is the order of the reals, the larger of two is their maximum, and a stop time is at or before a rational time
exactly where its real value is (log 2). -/
def Obligations.ExactTimeComparison : Prop :=
  ∀ (F : OpenFunctions),
    (∀ x y : Dur, x.le y = true ↔ x.term.value F ≤ y.term.value F) ∧
    (∀ x y : Dur, (x.max y).term.value F = max (x.term.value F) (y.term.value F)) ∧
    (∀ (m : Moment) (t : Rat), m.atOrBefore t = true ↔ m.term.value F ≤ (t : ℝ))

/-- getPatch takes the bank's entry, else the built-in one, else the generic patch. (R100) The contents of the built-
in table are open (log 5). -/
def Obligations.MelodicSelection : Prop :=
  ∀ (s : State) (prog : Data7),
    ((s.pmMel.read prog.toNat).valid = true → s.getPatch prog = (s.pmMel.read prog.toNat).patch) ∧
    ((s.pmMel.read prog.toNat).valid = false →
      s.getPatch prog = (Config.builtinMel prog).getD Config.genericPatch)

/-- The percussion channel selects the nearest valid percussion note, the lower of two; other channels and an empty
bank select by program. (R101, R102, R103) -/
def Obligations.PercussionSelection : Prop :=
  ∀ (s : State) (ch : Chan) (note : Data7),
    let valid : Nat → Prop := fun k => k < 128 ∧ (s.pmPerc.read k).valid = true
    let dist : Nat → Nat := fun k => ((k : Int) - (note.toNat : Int)).natAbs
    (ch ≠ s.par.percCh → s.selectPatch ch note = s.getPatch (s.chan ch).prog) ∧
    (ch = s.par.percCh → (∀ k, ¬ valid k) → s.selectPatch ch note = s.getPatch (s.chan ch).prog) ∧
    (ch = s.par.percCh → valid note.toNat → s.selectPatch ch note = (s.pmPerc.read note.toNat).patch) ∧
    (ch = s.par.percCh → (∃ k, valid k) → ¬ valid note.toNat →
      ∃ k, valid k ∧ (∀ j, valid j → dist k ≤ dist j ∧ (dist k = dist j → k ≤ j)) ∧
        s.selectPatch ch note = (s.pmPerc.read k).patch)

/-- The rate and level curves fall as the rules say, with the special values at their ends. (41_param_translator.md
R121, R124, R125, 93_implementation_defined.md U10) -/
def Obligations.TranslatorCurves : Prop :=
  ∀ F : OpenFunctions,
    (∀ a b : BitVec 4, a < b → attackSeconds b < attackSeconds a) ∧ attackSeconds 0#4 = 10 ∧
    (sustainLevel 0#4).value F = 1 ∧ (sustainLevel 15#4).value F = 0.00002 ∧
    (∀ a b : BitVec 4, a < b → (sustainLevel b).value F < (sustainLevel a).value F) ∧
    (totalLevel 0#6).value F = 1 ∧ (totalLevel 63#6).value F = 0.005 ∧
    (∀ a b : BitVec 6, a < b → b < 63#6 → (totalLevel b).value F < (totalLevel a).value F) ∧
    (totalLevel 62#6).value F < (totalLevel 63#6).value F

/-- Key-scale level attenuates only above the reference note, and key-scale rate only speeds up. (R128, R129) -/
def Obligations.KeyScaling : Prop :=
  ∀ (F : OpenFunctions) (ref : Nat) (k : BitVec 2) (ksr : Bool) (note : Data7),
    (keyScaleLevel ref k note).value F = realKeyScaleLevel ref k note ∧
    0 < (keyScaleLevel ref k note).value F ∧ (keyScaleLevel ref k note).value F ≤ 1 ∧
    (k = 0#2 ∨ note.toNat ≤ ref → (keyScaleLevel ref k note).value F = 1) ∧
    (keyScaleRate ksr note).value F = realKeyScaleRate ksr note ∧ 1 ≤ (keyScaleRate ksr note).value F ∧
    (keyScaleRate false note).value F = 1

/-- The four base shapes are the formulas of R141, lie in -1 to 1, and all but the sine are non-negative. (R141) -/
def Obligations.ShapesBounded : Prop :=
  ∀ (F : OpenFunctions) (p : ℝ), 0 ≤ p → p < 1 →
    let N := Numerics.exact F
    let sine := Real.sin (2 * Real.pi * p)
    N.shape 0#2 p = sine ∧
    N.shape 1#2 p = (if p < 1 / 2 then sine else 0) ∧
    N.shape 2#2 p = |sine| ∧
    N.shape 3#2 p = (if Int.fract (2 * p) < 1 / 2 then |sine| else 0) ∧
    ∀ s : BitVec 2, -1 ≤ N.shape s p ∧ N.shape s p ≤ 1 ∧ (s ≠ 0#2 → 0 ≤ N.shape s p)

/-- A lookup truncates the phase to a table index that is in range, for any real phase, and has period one cycle.
(R151) -/
def Obligations.WaveLookup : Prop :=
  ∀ (F : OpenFunctions) (n c : Nat) (s : BitVec 2) (fb : BitVec 3) (ph : ℝ), 0 < n →
    let N := Numerics.exact F
    (N.waveTable n c s fb).length = n ∧
    ⌊Int.fract ph * n⌋.toNat < n ∧
    (N.waveTable n c s fb)[⌊Int.fract ph * n⌋.toNat]? = some (N.wave n c s fb ph) ∧
    N.wave n c s fb (ph + 1) = N.wave n c s fb ph ∧
    -1 ≤ N.wave n c s fb ph ∧ N.wave n c s fb ph ≤ 1

/-- A table without feedback samples its shape; with feedback each sample is fed the average of the two before it.
(42_waveform.md R143, R144, R145, R150) -/
def Obligations.WaveTables : Prop :=
  ∀ (F : OpenFunctions) (n c : Nat) (s : BitVec 2) (fb : BitVec 3),
    let N := Numerics.exact F
    let y : Nat → ℝ := fun k => ((Numerics.exact F).waveTable n c s fb).getD k 0
    (fb = 0#3 → ∀ k, k < n → y k = N.shape s ((k : ℝ) / n)) ∧
    (fb ≠ 0#3 → ∀ k, k + 2 < n →
      y (k + 2) = N.shape s (Int.fract (((k + 2 : Nat) : ℝ) / n +
        1 / 2 ^ (9 - fb.toNat) * ((y (k + 1) + y k) / 2)))) ∧
    (fb ≠ 0#3 → c = 0 → 1 < n →
      y 0 = N.shape s 0 ∧ y 1 = N.shape s (Int.fract ((1 : ℝ) / n + 1 / 2 ^ (9 - fb.toNat) * (y 0 / 2)))) ∧
    (fb ≠ 0#3 → 1 < n →
      let z : Nat → ℝ := fun k => ((Numerics.exact F).waveTable n (c + 1) s fb).getD k 0
      z 0 = N.shape s (Int.fract (1 / 2 ^ (9 - fb.toNat) * ((y (n - 1) + y (n - 2)) / 2))) ∧
      z 1 = N.shape s (Int.fract ((1 : ℝ) / n + 1 / 2 ^ (9 - fb.toNat) * ((z 0 + y (n - 1)) / 2))))

/-- The 3-phase envelope is the formula of R230 over the reals, its branches chosen by exact comparison. (R230, R231,
R232) -/
def Obligations.EnvelopeValue : Prop :=
  ∀ (F : OpenFunctions) (o : OpRun), 0 < F.envK → o.ok →
    (∀ start t : Rat, start ≤ t → (o.env0 start t).value F = o.realEnv0 F ((t : ℝ) - start)) ∧
    (o.attackGain o.attack.term).value F = o.gA.value F ∧
    (o.decayGain o.attack.term).value F = o.gA.value F ∧
    (o.decayGain (.add o.attack.term o.decay.term)).value F = o.gD.value F ∧
    (o.selfReleaseGain (.add o.attack.term o.decay.term)).value F = o.gD.value F

/-- From its release on an operator's gain approaches FLOOR with its own time constant from the gain it had. (R233) -/
def Obligations.ReleaseRamp : Prop :=
  ∀ (F : OpenFunctions) (v : Voice) (x : OpName) (t : Rat), 0 < F.envK → v.opM.ok → v.opC.ok →
    let o := v.op x
    let g (tr : Rat) : ℝ := if tr < v.t0 then 0 else o.realEnv0 F ((tr : ℝ) - v.t0)
    (t < v.t0 → (v.env1 x t).value F = 0) ∧
    (v.t0 ≤ t → (∀ tr ∈ v.rel, t < tr) → (v.env1 x t).value F = o.realEnv0 F ((t : ℝ) - v.t0)) ∧
    (v.t0 ≤ t → ∀ tr ∈ v.rel, tr ≤ t → (v.env1 x t).value F =
      0.00002 + (g tr - 0.00002) * Real.exp (-((t : ℝ) - tr) / (o.release.term.value F / F.envK)))

/-- From its hard-stop on an operator's gain is a straight line to zero over HARD_STOP_S. (R234) -/
def Obligations.HardStopFade : Prop :=
  ∀ (F : OpenFunctions) (p : Params) (v : Voice) (x : OpName) (t : Rat), 0 < p.hardStopS →
    ((∀ th ∈ v.hs, t < th) → v.gain p x t = v.env1 x t) ∧
    ∀ th ∈ v.hs, th ≤ t →
      (v.gain p x t).value F = (v.env1 x th).value F * max 0 (1 - ((t : ℝ) - th) / p.hardStopS) ∧
      (t = th → (v.gain p x t).value F = (v.env1 x th).value F) ∧
      (th + p.hardStopS ≤ t → (v.gain p x t).value F = 0)

/-- Amplitude modulation multiplies the gain by a factor between 0.94 and 1.06, and by 1 without the flag. (R235) -/
def Obligations.AmplitudeModulation : Prop :=
  ∀ (F : OpenFunctions) (p : Params) (v : Voice) (x : OpName) (t : Rat),
    (v.gainAM p x t).value F = (v.gain p x t).value F *
      (if (v.op x).am then 1 + (p.amDepth : ℝ) * Real.sin (2 * Real.pi * p.amHz * ((t : ℝ) - v.t0)) else 1) ∧
    |(v.amFactor p x t).value F - 1| ≤ |(p.amDepth : ℝ)| ∧
    (p.amDepth = 6 / 100 → 0.94 ≤ (v.amFactor p x t).value F ∧ (v.amFactor p x t).value F ≤ 1.06) ∧
    Config.suggested.amDepth = 6 / 100 ∧ Config.suggested.amHz = 37 / 10

/-- An operator's frequency is its base frequency times 2 to the detune and vibrato in cents over 1200. (R222, R223)
-/
def Obligations.OperatorFrequency : Prop :=
  ∀ (F : OpenFunctions) (p : Params) (v : Voice) (x : OpName) (t : Rat),
    (v.freq p x t).value F = (v.op x).f.value F * (2 : ℝ) ^ (((v.bendAt t : ℝ) +
      (if (v.op x).vib then (p.vibCents : ℝ) * Real.sin (2 * Real.pi * p.vibHz * ((t : ℝ) - v.t0)) else 0)) / 1200) ∧
    (∀ before after b, v.bend = before ++ b :: after → b.1 ≤ t → (∀ a ∈ after, t < a.1) → v.bendAt t = b.2) ∧
    Config.suggested.vibCents = 7 ∧ Config.suggested.vibHz = 61 / 10

/-- A sample is MVOL times the sum over the active voices of pan gain times voice output, and silence without one.
(45_audio_path.md R221, R224, R225, R240) -/
def Obligations.TickMix : Prop :=
  ∀ (F : OpenFunctions) (s : State),
    let t := s.clk
    (∀ (v : Voice) (u : Rat), v.active u = true ↔ v.t0 ≤ u ∧ ¬ ∃ m, v.stop = some m ∧ m.term.value F ≤ (u : ℝ)) ∧
    let sounding := (s.vt ++ s.tails).filter (·.active t)
    let osc (v : Voice) (x : OpName) : ℝ := (Numerics.exact F).wave s.par.wtN s.par.wtPrime (v.op x).ws (v.op x).fb
      ((v.ph x).value F) * (v.gainAM s.par x t).value F
    let y (v : Voice) : ℝ := match v.alg with
      | .fm => osc v .carrier
      | .additive => osc v .carrier + osc v .modulator
    s.sampleTick.outL.value F = (s.mvol : ℝ) * (sounding.map fun v => v.gL.value F * y v).sum ∧
    s.sampleTick.outR.value F = (s.mvol : ℝ) * (sounding.map fun v => v.gR.value F * y v).sum ∧
    (sounding = [] → s.sampleTick.outL.value F = 0 ∧ s.sampleTick.outR.value F = 0)

/-- With nothing waiting a step is one sample tick: it advances the clock by one and the phases of the active voices.
(45_audio_path.md R220, R226, R240) That the FM carrier's frequency reads the modulator's phase from before its
advance is the model's reading of R226 (log 30). -/
def Obligations.TickPhases : Prop :=
  ∀ (F : OpenFunctions) (s : State), s.port = [] → (∀ e ∈ s.env.head?, s.clkN < e.1) →
    s.sched.timerDue s.clk = false →
    let t := s.clk
    let moved (v v' : Voice) : Prop := v' = { v with phM := v'.phM, phC := v'.phC } ∧
      if v.active t = true then
        v'.phM.value F = v.phM.value F + (v.freq s.par .modulator t).value F / s.par.fs ∧
        v'.phC.value F = v.phC.value F + ((v.freq s.par .carrier t).value F + (match v.alg with
          | .fm => F.fmDepth (v.opM.f.value F) (v.opC.f.value F) *
              ((Numerics.exact F).wave s.par.wtN s.par.wtPrime v.opM.ws v.opM.fb (v.phM.value F) *
                (v.gainAM s.par .modulator t).value F)
          | .additive => 0)) / s.par.fs
      else v' = v
    (s.Inv → ∀ v ∈ s.vt ++ s.tails, t < v.t0 + 1 / s.par.fs → v.phM.value F = 0 ∧ v.phC.value F = 0) ∧
    ∃ s', step s = .next s' ∧ s'.clkN = s.clkN + 1 ∧ s'.outL = s.mixL t ∧ s'.outR = s.mixR t ∧
      List.Forall₂ moved s.vt s'.vt ∧
      List.Forall₂ moved s.tails s'.tails ∧ s.SameMemory s' ∧
      s' = { s with clkN := s'.clkN, outL := s'.outL, outR := s'.outR, vt := s'.vt, tails := s'.tails }

/-- The output does not depend on the cache, the order of the tails, the host or the channels. (R241) -/
def Obligations.OutputIndependence : Prop :=
  ∀ (F : OpenFunctions) (s s' : State), s'.par = s.par → s'.clkN = s.clkN → s'.mvol = s.mvol → s'.vt = s.vt →
    s.tails.Perm s'.tails →
    s'.sampleTick.outL.value F = s.sampleTick.outL.value F ∧ s'.sampleTick.outR.value F = s.sampleTick.outR.value F

/-- The phase of a voice is the first of R23's cases that holds, by exact comparison with the carrier's times. (R23)
-/
def Obligations.VoicePhases : Prop :=
  ∀ (F : OpenFunctions) (v : Voice) (t : Rat), v.opC.ok →
    let A := v.opC.attack.term.value F
    let D := v.opC.decay.term.value F
    (if ∃ m, v.stop = some m ∧ m.term.value F ≤ (t : ℝ) then v.phase t = .idle
     else if (∃ r, v.rel = some r ∧ r ≤ t) ∨ (∃ h, v.hs = some h ∧ h ≤ t) then v.phase t = .released
     else if t < v.t0 then v.phase t = .pending
     else if (t : ℝ) < v.t0 + A then v.phase t = .attack
     else if (t : ℝ) < v.t0 + A + D then v.phase t = .decay
     else if v.opC.egt = true then v.phase t = .sustain
     else v.phase t = .releaseScheduled)

/-- ALL_STOP empties the registry, ends every tail within HARD_STOP_S, and so silences the output. (R261) -/
def Obligations.AllStopSilences : Prop :=
  ∀ (s : State) (t t' : TimeField), ∃ s', exec (.allStop t) s = .next s' ∧ s'.vt = [] ∧
    s'.tails = ((s.tails ++ s.vt).filter fun v => !stoppedBy v.stop s.clk).map
      (fun v => v.hardStoppedTail s.par s.clk) ∧
    (∀ v ∈ s'.tails, stoppedBy v.stop (s.clk + s.par.hardStopS) = true) ∧
    (∀ (F : OpenFunctions) (u : Rat), s.clk + s.par.hardStopS ≤ u →
      (s'.mixL u).value F = 0 ∧ (s'.mixR u).value F = 0) ∧
    s.SameMemory s' ∧ s' = { s with vt := s'.vt, tails := s'.tails } ∧
    (s.vt = [] → s.tails = [] → s' = s) ∧ (s.Inv → exec (.allStop t') s' = .next s')

/-- CH_RESET gives every channel all five fields of CH_RESET_VALUES and changes nothing else. (R262) -/
def Obligations.ChannelReset : Prop :=
  ∀ (s : State) (t : TimeField), ∃ s', exec (.chReset t) s = .next s' ∧ (∀ c, s'.chan c = s.par.chReset) ∧
    s.SameMemory s' ∧ s' = { s with ch := s'.ch }

/-- MVOL sets the master volume to vol16 over 0x8000, clamped to 1, and changes nothing else. (R88, R263) -/
def Obligations.MasterVolume : Prop :=
  ∀ (s : State) (vol16 : BitVec 16) (t : TimeField), ∃ s', exec (.mvol vol16 t) s = .next s' ∧
    s'.mvol = min (vol16.toNat : Rat) 0x8000 / 0x8000 ∧ s.SameMemory s' ∧ s' = { s with mvol := s'.mvol }

/-- DEV_ATTACH to a new device writes DEV and empties the cache; to the same device it is a nop. (R264, R363) -/
def Obligations.DeviceAttach : Prop :=
  ∀ (s : State) (handle : BitVec 16) (t : TimeField),
    (handle = s.dev → exec (.devAttach handle t) s = .next s) ∧
    (handle ≠ s.dev → (∀ v ∈ s.vt ++ s.tails, stoppedBy v.stop s.clk = true) →
      ∃ s', exec (.devAttach handle t) s = .next s' ∧ s'.dev = handle ∧ s'.wtc = [] ∧ s.SameMemory s' ∧
        s' = { s with dev := s'.dev, wtc := s'.wtc }) ∧
    (handle ≠ s.dev → (∃ v ∈ s.vt ++ s.tails, stoppedBy v.stop s.clk = false) →
      exec (.devAttach handle t) s = .refused .deviceChangeWhileUnfinished)

/-- BANK_CLR clears every valid bit of the spaces it names and keeps the rest. (R265) -/
def Obligations.BankClear : Prop :=
  ∀ (s : State) (mel perc : Bool) (t : TimeField),
    ((∀ v ∈ s.vt ++ s.tails, stoppedBy v.stop s.clk = true) → s.pmMel.wf → s.pmPerc.wf →
      ∃ s', exec (.bankClr mel perc t) s = .next s' ∧
        (∀ i, s'.pmMel.read i = { s.pmMel.read i with valid := (s.pmMel.read i).valid && !mel }) ∧
        (∀ i, s'.pmPerc.read i = { s.pmPerc.read i with valid := (s.pmPerc.read i).valid && !perc }) ∧
        s' = { s with pmMel := s'.pmMel, pmPerc := s'.pmPerc } ∧ (mel = false → perc = false → s' = s)) ∧
    ((∃ v ∈ s.vt ++ s.tails, stoppedBy v.stop s.clk = false) → mel = true ∨ perc = true →
      exec (.bankClr mel perc t) s = .refused .bankClearWhileUnfinished)

/-- PATCH_WR writes one whole entry of one space, seen by the next selection, and no other entry changes. (R43) -/
def Obligations.PatchWrite : Prop :=
  (∀ w : PatchWord, w.extractLsb' 88 7 = 0#7 → recordZeros (w.extractLsb' 0 88) = true →
    decode (.patch w) = .ok (.patchWr (if w.getLsbD 103 then .percussion else .melodic) (w.extractLsb' 96 7)
      (w.getLsbD 95) (unpack (w.extractLsb' 0 88)))) ∧
  ∀ (s : State) (sp : Space) (idx : Data7) (valid : Bool) (P : Patch),
    ((∀ v ∈ s.vt ++ s.tails, stoppedBy v.stop s.clk = true) → s.pmMel.wf → s.pmPerc.wf →
      ∃ s', exec (.patchWr sp idx valid P) s = .next s' ∧
        (s'.patches sp).read idx.toNat = { valid := valid, patch := P } ∧
        (∀ sp' i, (sp', i) ≠ (sp, idx.toNat) → (s'.patches sp').read i = (s.patches sp').read i) ∧
        s' = { s with pmMel := s'.pmMel, pmPerc := s'.pmPerc } ∧
        (sp = .melodic → valid = true → s'.getPatch idx = P)) ∧
    ((∃ v ∈ s.vt ++ s.tails, stoppedBy v.stop s.clk = false) →
      exec (.patchWr sp idx valid P) s = .refused .patchWriteWhileUnfinished)

/-- An event becomes the command of its type, its play-time rounded up by less than one step of the field.
(47_host_scheduler.md R290, R296, 30_encoding.md R73, R79, 93_implementation_defined.md U4) Whenever a dispatch has a
word, that word decodes to the Format E command of the event's type with its channel and data bytes, a program-
change's second byte whatever it is, where the bytes are in their field's range, and is a reserved word elsewhere (log
26); its play-time is at least anchor + e.time and less than 2^-32 s above it. Where the rounded play-time is below 0,
which the field cannot hold, it is the model's free value, past as R296 says (log 19). -/
def Obligations.DispatchRoundsUp : Prop :=
  ∀ (now anchor : Rat) (e : Event),
    let q : Rat := anchor + e.time
    (∀ w, dispatchEvent now anchor e = some w →
      ∃ t : TimeField,
        (-1 < q * 2 ^ 32 → q ≤ playTime t ∧ playTime t < q + 1 / 2 ^ 32) ∧
        (q * 2 ^ 32 ≤ -1 → 0 < now → playTime t < now) ∧
        (e.legal → decode w = .ok (match e.kind with
          | .noteOff => .noteOff e.ch (low7 e.d1) (low7 e.d2) t
          | .noteOn => .noteOn e.ch (low7 e.d1) (low7 e.d2) t
          | .controlChange => decodeController e.ch t (low7 e.d1) (low7 e.d2)
          | .programChange => .progChange e.ch (low7 e.d1) e.d2 t
          | .pitchBend => .pitchBend e.ch (low7 e.d1) (low7 e.d2) t)) ∧
        (¬ e.legal → decode w = .error .dataByte)) ∧
    ((dispatchEvent now anchor e).isSome ↔ q * 2 ^ 32 ≤ 2 ^ 64 - 1)

/-- The loop bounds are the first start marker and the first end marker after it, or else the whole song. (R285, R286)
-/
def Obligations.LoopScan : Prop :=
  ∀ h : Scheduler,
    let start (i : Nat) : Prop := IsFirst (fun _ e => e.kind = .controlChange ∧ e.d1 = 110#8) h.seq i
    let stop (i j : Nat) : Prop := IsFirst (fun k e => i < k ∧ e.kind = .controlChange ∧ e.d1 = 111#8 ∧
      ∃ b, h.seq[i]? = some b ∧ b.time ≤ e.time) h.seq j
    (∀ i j a b, start i → stop i j → h.seq[i]? = some a → h.seq[j]? = some b →
      h.scan = { h with loopStartIdx := i, loopEndIdx := j, loopStart := a.time, loopEnd := b.time,
                        loopDur := b.time - a.time }) ∧
    ((¬ ∃ i j, start i ∧ stop i j) →
      h.scan = { h with loopStartIdx := 0, loopEndIdx := h.seq.length, loopStart := 0, loopEnd := h.total,
                        loopDur := h.total })

/-- The play-times one pump issues never decrease, also across loop wraps. (47_host_scheduler.md R291, R289, R292) -/
def Obligations.PumpPlayTimesAscend : Prop :=
  ∀ (p : Params) (now : Rat) (h h' : Scheduler) (ws : List PortWord), songOk h.seq → h.ok now →
    h.tick p now = some (h', ws) → (ws.map wordTime).Pairwise (· ≤ ·)

/-- A pump dispatches the events of its window in order, wraps a loop at most MAX_WRAPS times, and ends a song whose
end is past. (47_host_scheduler.md R288, R289, R290, R292, R293, R294, 93_implementation_defined.md U4) A tick call,
and a step with nothing waiting and the pump timer due, run that tick, the timer set PUMP_PERIOD_S on (log 17), and
append its words to the port. That a due pump goes before the sample tick, and after waiting words and due inputs, is
the model's order of agents (log 15). Where a play-time does not fit its field the call or the step is refused as a
whole (U4, log 19). -/
def Obligations.PumpBoundAndEnd : Prop :=
  (∀ (p : Params) (now : Rat) (h h' : Scheduler) (ws : List PortWord), h.tick p now = some (h', ws) →
    let endIdx := if h.looping then h.loopEndIdx else h.seq.length
    let endTime := if h.looping then h.loopEnd else h.total
    let window := now - h.anchor + p.lookaheadS
    let evs := ((h.seq.take endIdx).drop h.cursor).takeWhile fun e => decide (e.time ≤ window)
    let here : Scheduler := { h with cursor := h.cursor + evs.length }
    ws.length ≤ (p.maxWraps + 1) * h.seq.length ∧
    (h.mode ≠ .playing → h' = h ∧ ws = []) ∧
    (h.mode = .playing → ∃ first more, ws = first ++ more ∧
      List.Forall₂ (fun e w => dispatchEvent now h.anchor e = some w) evs first ∧
      if here.cursor = endIdx ∧ endTime ≤ window then
        if h.looping then
          match p.maxWraps with
          | 0 => h' = here ∧ more = []
          | k + 1 => ({ h with anchor := h.anchor + h.loopDur, cursor := h.loopStartIdx } : Scheduler).tick
              { p with maxWraps := k } now = some (h', more)
        else more = [] ∧ h' = if h.total < now - h.anchor then { here with mode := .stopped, timer := none } else here
      else h' = here ∧ more = [])) ∧
  (∀ s : State, s.HostAnswers (s.hostCall .tick) (s.sched.tick s.par s.clk)) ∧
  (∀ (s : State) (u : Rat), s.port = [] → (∀ e ∈ s.env.head?, s.clkN < e.1) → s.sched.timer = some u → u ≤ s.clk →
    s.HostAnswers (step s)
      (({ s.sched with timer := some (u + s.par.pumpPeriodS) } : Scheduler).tick s.par s.clk))

/-- play stops a running song, issues CH_RESET, sets the anchor ahead and pumps from the first event.
(47_host_scheduler.md R283, R287) Where a play-time does not fit its field the call is refused as a whole (U4, log
19). For a song in time order from 0 on, whenever play answers: the words are ALL_STOP if the host was not Stopped,
then CH_RESET, then the first pump's; the host is in Playing with the song, its total, the loop flag and its timer a
pump period on (log 17); without loop the anchor is LEAD_S ahead of the clock. The T field that ALL_STOP and CH_RESET
ignore is 0, the model's choice (log 9). -/
def Obligations.PlayStarts : Prop :=
  (∀ (s : State) (seq : List Event) (loop : Bool),
    s.HostAnswers (s.hostCall (.play seq loop)) (s.sched.play s.par s.clk seq loop)) ∧
  ∀ (p : Params) (clk : Rat) (seq : List Event) (loop : Bool) (h : Scheduler), 0 ≤ p.leadS →
    (h.play p clk [] loop = some (if h.mode = .stopped then (h, []) else ({ h with timer := none, mode := .stopped },
      [encode (.allStop 0#64)]))) ∧
    ∀ last h' ws, seq.getLast? = some last → songOk seq → h.play p clk seq loop = some (h', ws) →
      h'.mode = .playing ∧ h'.seq = seq ∧ h'.total = last.time ∧ h'.looping = loop ∧
      h'.timer = some (clk + p.pumpPeriodS) ∧ (loop = false → h'.anchor = clk + p.leadS) ∧
      ∃ (h₀ : Scheduler) (evs : List PortWord),
        ws = (if h.mode = .stopped then [] else [encode (.allStop 0#64)]) ++ encode (.chReset 0#64) :: evs ∧
        h₀.scan = h₀ ∧ h₀.seq = seq ∧ h₀.total = last.time ∧ h₀.mode = .playing ∧
        h₀.timer = some (clk + p.pumpPeriodS) ∧ h₀.anchor = clk + p.leadS ∧ h₀.cursor = 0 ∧ h₀.looping = loop ∧
        h₀.tick p clk = some (h', evs)

/-- pause and stop issue one ALL_STOP; resume goes on from the song time that pause recorded. (47_host_scheduler.md
R297, R298, R299) Where a play-time does not fit its field resume is refused as a whole (U4, log 19). In Playing,
pause records max(0, clk - anchor), cancels the timer and issues ALL_STOP, in another mode it does nothing; stop does
so in every mode, to Stopped; resume in Paused pumps, in Playing with its timer a pump period on (log 17), from an
anchor that puts the recorded song time LEAD_S ahead and from the first event at or after it (or the section's end),
in another mode it does nothing. The T field that ALL_STOP ignores is 0, the model's choice (log 9). -/
def Obligations.PauseResumeStop : Prop :=
  (∀ s : State, s.HostAnswers (s.hostCall .pause) (some (s.sched.pause s.clk)) ∧
    s.HostAnswers (s.hostCall .resume) (s.sched.resume s.par s.clk) ∧
    s.HostAnswers (s.hostCall .stop) (some s.sched.stop)) ∧
  ∀ (p : Params) (clk : Rat) (h : Scheduler),
    h.pause clk = (if h.mode = .playing then
      ({ h with pausedElapsed := max 0 (clk - h.anchor), timer := none, mode := .paused }, [encode (.allStop 0#64)])
      else (h, [])) ∧
    h.stop = ({ h with timer := none, mode := .stopped }, [encode (.allStop 0#64)]) ∧
    (h.mode ≠ .paused → h.resume p clk = some (h, [])) ∧
    (h.mode = .paused → ∃ c,
      h.resume p clk =
        ({ h with anchor := clk + p.leadS - h.pausedElapsed, cursor := c, mode := .playing,
                  timer := some (clk + p.pumpPeriodS) } : Scheduler).tick p clk ∧
      ((∃ e ∈ h.seq, h.pausedElapsed ≤ e.time) → IsFirst (fun _ e => h.pausedElapsed ≤ e.time) h.seq c) ∧
      ((∀ e ∈ h.seq, e.time < h.pausedElapsed) → c = if h.looping then h.loopEndIdx else h.seq.length))

/-- setMasterVolume issues one MVOL that sets the volume nearest to the request. (47_host_scheduler.md R300,
30_encoding.md R91, R88) In every state the word issued for x decodes to an MVOL that completes and leaves MVOL within
half a step, 1/65536, of x clamped to 0..1, in any mode; how a tie rounds is open (log 20). -/
def Obligations.VolumeRequest : Prop :=
  ∀ (x : Rat) (s : State), s.hostCall (.setMasterVolume x) = .next { s with port := s.port ++ [volumeWord x] } ∧
    ∃ i s', decode (volumeWord x) = .ok i ∧ exec i s = .next s' ∧
      |s'.mvol - max 0 (min 1 x)| ≤ 1 / 65536

/-- A malformed bank file issues nothing (which table tests: log 21); a good one BANK_CLR and one PATCH_WR per usable
entry. (20_memory.md R47, R48, R49, 30_encoding.md R91) A wrong signature issues no word; nor does a bank too short
for its header or a table that runs past its end, where reading R48's table offset as the whole table and the header
as needed is the model's choice (log 21), as is counting offsets from the signature (log 29). The signature, the
record layout, and which entries are melodic, of which program, or unusable are open, and a tag above 127 is not
usable (log 21). Instrument indices count from 0, the model's choice, since R47 and R49 give no base (log 33). The
PATCH_WRs stand in the order of the names table, so that of two usable entries for one slot the later one stays, the
model's choice, since R49 and R91 give no order (log 31). A bank with no usable entry still issues a BANK_CLR, of no
space, the model's choice, since R91 does not say (log 32). The T field that the loader's words ignore is 0 in
BANK_CLR, the model's choice, since R93 leaves it free (log 9). -/
def Obligations.BankLoad : Prop :=
  (∀ (s : State) (bytes : List FileByte),
    s.hostCall (.loadBank bytes) = .next { s with port := s.port ++ bankWords (bankBody bytes) } ∧
    bankBody bytes = if Config.bankHasPad bytes then bytes.drop 2 else bytes) ∧
  ∀ body : List FileByte,
    ((body.take 6 ≠ Config.bankSignature.toList ∨ body.length < 18 ∨
      body.length < le32 body 10 + 12 * le16 body 6 ∨ body.length < le32 body 14 + 30 * le16 body 8) →
      bankWords body = []) ∧
    (body.take 6 = Config.bankSignature.toList → 18 ≤ body.length →
      le32 body 10 + 12 * le16 body 6 ≤ body.length → le32 body 14 + 30 * le16 body 8 ≤ body.length →
      let index (k : Nat) : Nat := le16 body (le32 body 10 + 12 * k)
      let tag (k : Nat) : FileByte := body.getD (le32 body 10 + 12 * k + 2) 0#8
      let patch (k : Nat) : Patch := Config.bankRecord ((body.drop (le32 body 14 + 30 * index k)).take 30)
      let write (k : Nat) : Option PortWord :=
        if index k < le16 body 8 then
          match Config.bankTarget body k with
          | some (.melodic program) => some (encode (.patchWr .melodic program true (patch k)))
          | some .percussion =>
            if (tag k).toNat < 128 then
              some (encode (.patchWr .percussion (BitVec.ofNat 7 (tag k).toNat) true (patch k)))
            else none
          | none => none
        else none
      let writes := (List.range (le16 body 6)).filterMap write
      ∃ mel perc, bankWords body = encode (.bankClr mel perc 0#64) :: writes ∧
        (mel = true ↔ ∃ w ∈ writes, ∃ idx P, decode w = .ok (.patchWr .melodic idx true P)) ∧
        (perc = true ↔ ∃ w ∈ writes, ∃ idx P, decode w = .ok (.patchWr .percussion idx true P)))
end

