-- ==== Sys2Proof/Laws/Encoding.lean ====
section
/-! SUPPORT. Fields of words as arithmetic, and what the pieces of the decoder and the encoder do to each other
(30_encoding.md R70 to R78, 20_memory.md R43 to R45). -/

namespace Sys2Proof

/-- The number in a concatenation (R6). -/
theorem toNat_append_eq {n m : Nat} (x : BitVec n) (y : BitVec m) : (x ++ y).toNat = x.toNat * 2 ^ m + y.toNat := by
  rw [BitVec.toNat_append, ← Nat.shiftLeft_add_eq_or_of_lt y.isLt, Nat.shiftLeft_eq]

/-- The number in a field (R6). -/
theorem extract_toNat_eq {n : Nat} (x : BitVec n) (s l : Nat) : (x.extractLsb' s l).toNat = x.toNat / 2 ^ s % 2 ^ l := by
  rw [BitVec.extractLsb'_toNat, Nat.shiftRight_eq_div_pow]

/-- One bit of a word as arithmetic (R6). -/
theorem getLsbD_eq_mod {n : Nat} (x : BitVec n) (i : Nat) : x.getLsbD i = decide (x.toNat / 2 ^ i % 2 = 1) := by
  rw [BitVec.getLsbD, Nat.testBit_eq_decide_div_mod_eq]

/-- A one-bit word. -/
theorem ofBool_toNat_eq (b : Bool) : (BitVec.ofBool b).toNat = b.toNat := by cases b <;> rfl

/-- One bit of a word as a one-bit word. -/
theorem ofBool_getLsbD_toNat {n : Nat} (x : BitVec n) (i : Nat) : (BitVec.ofBool (x.getLsbD i)).toNat = x.toNat / 2 ^ i % 2 := by
  rw [getLsbD_eq_mod, ofBool_toNat_eq]
  rcases Nat.mod_two_eq_zero_or_one (x.toNat / 2 ^ i) with h | h <;> simp [h]

/-- One bit of a word is a field of width 1. -/
theorem ofBool_getLsbD {n : Nat} (x : BitVec n) (i : Nat) : BitVec.ofBool (x.getLsbD i) = x.extractLsb' i 1 := by
  apply BitVec.eq_of_toNat_eq
  rw [ofBool_getLsbD_toNat, extract_toNat_eq, pow_one]

/-- The fields of a joined command word are the fields (R70, R72). -/
theorem split_join (f : CommandFields) : splitCommand (joinCommand f) = f := by
  obtain ⟨t, op, ch, d1, d2⟩ := f
  simp only [splitCommand, joinCommand, CommandFields.mk.injEq]
  refine ⟨?_, ?_, ?_, ?_, ?_⟩ <;> apply BitVec.eq_of_toNat_eq <;>
    simp only [extract_toNat_eq, toNat_append_eq] <;> omega

/-- Joining the fields of a command word gives the word back (R70, R72). -/
theorem join_split (w : CommandWord) : joinCommand (splitCommand w) = w := by
  simp only [splitCommand, joinCommand]
  apply BitVec.eq_of_toNat_eq
  simp only [extract_toNat_eq, toNat_append_eq]
  omega

/-- A data byte holds its 7-bit value (R73). -/
theorem low7_byteOf (d : Data7) : low7 (byteOf d) = d := by
  revert d; decide

/-- Bit 7 of a data byte is 0 (R73). -/
theorem byteOf_msb (d : Data7) : (byteOf d).getLsbD 7 = false := by
  revert d; decide

/-- A byte with bit 7 clear is the data byte of its low bits (R73). -/
theorem byteOf_low7 (b : BitVec 8) (h : b.getLsbD 7 = false) : byteOf (low7 b) = b := by
  revert b; decide

/-- The five record bytes of an operator hold its fields (R44). -/
theorem unpackOperator_packOperator (o : Operator) : unpackOperator (packOperator o) = o := by
  obtain ⟨am, vib, egt, ksr, mult, ksl, tl, ar, dr, sl, rr, ws⟩ := o
  simp only [unpackOperator, packOperator, Operator.mk.injEq]
  have := Bool.toNat_le am
  have := Bool.toNat_le vib
  have := Bool.toNat_le egt
  have := Bool.toNat_le ksr
  refine ⟨?_, ?_, ?_, ?_, ?_, ?_, ?_, ?_, ?_, ?_, ?_, ?_⟩ <;> (try apply BitVec.eq_of_toNat_eq) <;>
    simp only [getLsbD_eq_mod, extract_toNat_eq, toNat_append_eq, ofBool_toNat_eq]
  · cases am <;> simp <;> omega
  · cases vib <;> simp <;> omega
  · cases egt <;> simp <;> omega
  · cases ksr <;> simp <;> omega
  all_goals omega

/-- Five record bytes whose must-be-0 bits are 0 are the bytes of their operator (R44). -/
theorem packOperator_unpackOperator (w : BitVec 40) (h : w.extractLsb' 34 6 = 0#6) :
    packOperator (unpackOperator w) = w := by
  simp only [unpackOperator, packOperator, ← h, ofBool_getLsbD]
  iterate 12 rw [BitVec.extractLsb'_append_extractLsb'_eq_extractLsb' (by rfl)]
  exact BitVec.extractLsb'_eq_self

/-- The must-be-0 bits of the packed bytes are 0 (R44). -/
theorem packOperator_lt (o : Operator) : (packOperator o).toNat < 2 ^ 34 := by
  simp only [packOperator, toNat_append_eq, ofBool_toNat_eq, BitVec.toNat_ofNat]
  have := Bool.toNat_le o.ksr
  have := Bool.toNat_le o.am
  have := Bool.toNat_le o.vib
  have := Bool.toNat_le o.egt
  omega

/-- The algorithm bit holds the algorithm (R44). -/
theorem algorithmOf_bit (a : Algorithm) : algorithmOf (algorithmBit a) = a := by cases a <;> rfl

/-- The algorithm a bit selects has that bit (R44). -/
theorem algorithmBit_of (b : Bool) : algorithmBit (algorithmOf b) = b := by cases b <;> rfl

/-- The space bit holds the space (R43). -/
theorem spaceOf_bit (a : Space) : spaceOf (spaceBit a) = a := by cases a <;> rfl

/-- The space a bit selects has that bit (R43). -/
theorem spaceBit_of (b : Bool) : spaceBit (spaceOf b) = b := by cases b <;> rfl

/-- The must-be-0 bits of a record as arithmetic (R44). -/
theorem recordZeros_iff (r : RecordWord) : recordZeros r = true ↔
    r.toNat / 2 ^ 34 % 2 ^ 6 = 0 ∧ r.toNat / 2 ^ 74 % 2 ^ 6 = 0 ∧ r.toNat / 2 ^ 84 % 2 ^ 4 = 0 := by
  simp only [recordZeros, Bool.and_eq_true, beq_iff_eq, ← BitVec.toNat_inj, extract_toNat_eq, and_assoc, BitVec.toNat_ofNat, Nat.zero_mod]

/-- The sub-command of a controller number is well-formed and is spelled with that number (R78, R89). -/
theorem decodeController_encode (ch : Chan) (t : TimeField) (cc val : Data7) :
    encode (decodeController ch t cc val) = eventWord t 0xB#4 ch (byteOf cc) (byteOf val) ∧
      (decodeController ch t cc val).wellFormed = true := by
  unfold decodeController
  repeat' split
  all_goals simp_all [encode, Instr.wellFormed, specificControllers]

end Sys2Proof
end

