-- ==== Sys2Proof/Laws/Host.lean ====
section
/-! SUPPORT. What the host's operations can do (R285 to R294): the play-time field, dispatch, the events of a pump's
window, the pump's four outcomes, the loop scan. -/

namespace Sys2Proof.Machine

/-! ## The play-time field (R290, R296, U4) -/

/-- The field is free below 0, the rounded play-time where it fits, and none beyond. -/
theorem timeFieldOf_eq_some {now q : Rat} {t : TimeField} :
    timeFieldOf now q = some t ↔
      ((q * 2 ^ 32).ceil < 0 ∧ t = pastTimeField now q) ∨
        (0 ≤ (q * 2 ^ 32).ceil ∧ (q * 2 ^ 32).ceil < 2 ^ 64 ∧ t = BitVec.ofNat 64 (q * 2 ^ 32).ceil.toNat) := by
  unfold timeFieldOf
  dsimp only
  split
  · rename_i h
    simp [h, not_le.mpr h, eq_comm]
  · rename_i h
    split
    · rename_i h'
      rw [Option.some.injEq]
      constructor
      · rintro rfl
        exact .inr ⟨not_lt.mp h, h', rfl⟩
      · rintro (⟨h'', -⟩ | ⟨-, -, rfl⟩)
        · exact absurd h'' h
        · rfl
    · rename_i h'
      constructor
      · intro e
        cases e
      · rintro (⟨h'', -⟩ | ⟨-, h'', -⟩)
        · exact absurd h'' h
        · exact absurd h'' h'

/-- A free field is past, where there is a past field (R296). -/
theorem playTime_pastTimeField_lt {now : Rat} (h : 0 < now) (q : Rat) : playTime (pastTimeField now q) < now := by
  have h0 : (0 : Rat) < ((now * 2 ^ 32).ceil : Rat) := lt_of_lt_of_le (by positivity) Rat.le_ceil
  have h1 : ((now * 2 ^ 32).ceil : Rat) < now * 2 ^ 32 + 1 := Rat.ceil_lt
  unfold pastTimeField playTime
  rw [div_lt_iff₀ (by norm_num)]
  dsimp only
  generalize (now * 2 ^ 32).ceil = b at h0 h1
  have hb : 0 < b := by exact_mod_cast h0
  rw [if_neg (by omega), BitVec.toNat_ofNat]
  have hlt := Nat.mod_lt (Config.freeTimeField q).toNat (show 0 < b.toNat by omega)
  have hle := Nat.mod_le ((Config.freeTimeField q).toNat % b.toNat) (2 ^ 64)
  generalize (Config.freeTimeField q).toNat % b.toNat % 2 ^ 64 = m at hle
  have hm : (m : Int) ≤ b - 1 := by omega
  have hm' : (m : Rat) ≤ (b : Rat) - 1 := by exact_mod_cast hm
  linarith

/-! ## Dispatch (R290) -/

theorem dispatchEvent_eq_some {now anchor : Rat} {e : Event} {w : PortWord} :
    dispatchEvent now anchor e = some w ↔
      ∃ t, timeFieldOf now (anchor + e.time) = some t ∧ eventWord t (eventOpcode e.kind) e.ch e.d1 e.d2 = w := by
  simp [dispatchEvent]

/-- A list is dispatched event by event, in order. -/
theorem dispatchAll_eq_some {now anchor : Rat} :
    ∀ {es : List Event} {ws : List PortWord}, dispatchAll now anchor es = some ws ↔
      List.Forall₂ (fun e w => dispatchEvent now anchor e = some w) es ws
  | [], ws => by cases ws <;> simp [dispatchAll]
  | e :: es, ws => by
    unfold dispatchAll
    rw [List.forall₂_cons_left_iff]
    constructor
    · intro h
      split at h
      · rename_i h1 h2
        cases h
        exact ⟨_, _, h1, dispatchAll_eq_some.mp h2, rfl⟩
      · cases h
    · rintro ⟨w, ws', h1, h2, rfl⟩
      rw [h1, dispatchAll_eq_some.mpr h2]

/-! ## The pump (R289 to R294) -/

theorem Scheduler.batch_sublist (p : Params) (h : Scheduler) (now : Rat) : (h.batch p now).Sublist h.seq :=
  (List.takeWhile_sublist _).trans ((List.drop_sublist _ _).trans (List.take_sublist _ _))

/-- An event of the window stands in the song between the cursor and the end index, inside the horizon. -/
theorem Scheduler.mem_batch {p : Params} {now : Rat} {h : Scheduler} {e : Event} (he : e ∈ h.batch p now) :
    e.time ≤ h.horizon p now ∧ ∃ k, h.seq[k]? = some e ∧ h.cursor ≤ k ∧ k < h.endIdx := by
  refine ⟨by simpa using List.mem_takeWhile_imp he, ?_⟩
  obtain ⟨i, hi⟩ := List.mem_iff_getElem?.mp ((List.takeWhile_sublist _).subset he)
  rw [List.getElem?_drop, List.getElem?_take] at hi
  split at hi
  · exact ⟨_, hi, by omega, by assumption⟩
  · cases hi

/-- All a pump with `n` wraps left can do: dispatch its window, then return with the cursor moved (the boundary not
reached, a loop without wraps left, or a song not over), wrap and go on, or stop at the end of the song. -/
theorem Scheduler.pumpLoop_cases {p : Params} {now : Rat} {n : Nat} {h h' : Scheduler} {ws : List PortWord}
    (hp : h.pumpLoop p now n = some (h', ws)) :
    ∃ ws₀, dispatchAll now h.anchor (h.batch p now) = some ws₀ ∧
      let here : Scheduler := { h with cursor := h.cursor + (h.batch p now).length }
      let reached := here.cursor = h.endIdx ∧ h.endTime ≤ h.horizon p now
      ((¬ reached ∨ (h.looping = true ∧ n = 0) ∨ (h.looping = false ∧ ¬ h.endTime < now - h.anchor)) ∧
          h' = here ∧ ws = ws₀) ∨
      (reached ∧ h.looping = true ∧ ∃ k ws₁, n = k + 1 ∧ ws = ws₀ ++ ws₁ ∧
          ({ here with anchor := h.anchor + h.loopDur, cursor := h.loopStartIdx } : Scheduler).pumpLoop p now k =
            some (h', ws₁)) ∨
      (reached ∧ h.looping = false ∧ h.endTime < now - h.anchor ∧
          h' = { here with mode := .stopped, timer := none } ∧ ws = ws₀) := by
  unfold Scheduler.pumpLoop at hp
  cases hd : dispatchAll now h.anchor (h.batch p now) with
  | none => rw [hd] at hp; cases hp
  | some w =>
    refine ⟨w, rfl, ?_⟩
    rw [hd] at hp
    dsimp only at hp ⊢
    split at hp
    · rename_i hr
      split at hp
      · rename_i hl
        split at hp
        · cases hp
          exact .inl ⟨.inr (.inl ⟨hl, rfl⟩), rfl, rfl⟩
        · split at hp
          · cases hp
          · rename_i hk
            cases hp
            exact .inr (.inl ⟨hr, hl, _, _, rfl, rfl, hk⟩)
      · rename_i hl
        split at hp
        · rename_i ht
          cases hp
          exact .inr (.inr ⟨hr, by simpa using hl, ht, rfl, rfl⟩)
        · rename_i ht
          cases hp
          exact .inl ⟨.inr (.inr ⟨by simpa using hl, ht⟩), rfl, rfl⟩
    · rename_i hr
      cases hp
      exact .inl ⟨.inl hr, rfl, rfl⟩

/-! ## The loop scan (R285, R286) -/

/-- The scan sets the five loop fields and nothing else. -/
theorem Scheduler.scan_eq (h : Scheduler) :
    h.scan = { h with loopStartIdx := h.scan.loopStartIdx, loopEndIdx := h.scan.loopEndIdx,
                      loopStart := h.scan.loopStart, loopEnd := h.scan.loopEnd, loopDur := h.scan.loopDur } := by
  unfold Scheduler.scan
  dsimp only
  split
  · rfl
  · split <;> rfl

@[simp] theorem Scheduler.scan_seq (h : Scheduler) : h.scan.seq = h.seq := by rw [h.scan_eq]

@[simp] theorem Scheduler.scan_total (h : Scheduler) : h.scan.total = h.total := by rw [h.scan_eq]

@[simp] theorem Scheduler.scan_mode (h : Scheduler) : h.scan.mode = h.mode := by rw [h.scan_eq]

@[simp] theorem Scheduler.scan_timer (h : Scheduler) : h.scan.timer = h.timer := by rw [h.scan_eq]

end Sys2Proof.Machine
end

