-- ==== Sys2Proof/Laws/Memory.lean ====
section
/-! SUPPORT. The patch memories (R40, R41, R43, R52, R265): every operation keeps the canonical form, and what a read
gives after a write or a clear. -/

namespace Sys2Proof.Machine

/-- The canonical form of a memory with a first entry: it is listed right, it comes before the others, and the others
are canonical. -/
theorem Memory.wf_cons {a : Nat} {x : PatchEntry} {m : Memory} :
    Memory.wf ((a, x) :: m) ↔ (a < 128 ∧ x ≠ .unlisted) ∧ (∀ p ∈ m, a < p.1) ∧ Memory.wf m := by
  simp only [Memory.wf, List.map_cons, List.pairwise_cons, List.forall_mem_cons, List.mem_map]
  constructor
  · rintro ⟨⟨h1, h2⟩, h3, h4⟩
    exact ⟨h3, fun p hp => h1 _ ⟨p, hp, rfl⟩, h2, h4⟩
  · rintro ⟨h3, h1, h2, h4⟩
    exact ⟨⟨by rintro _ ⟨p, hp, rfl⟩; exact h1 p hp, h2⟩, h3, h4⟩

theorem Memory.wf_nil : Memory.wf [] := by simp [Memory.wf]

/-- An index below every listed one reads as unlisted. -/
theorem Memory.read_of_lt {m : Memory} {i : Nat} (h : ∀ p ∈ m, i < p.1) : m.read i = .unlisted := by
  induction m with
  | nil => rfl
  | cons p m ih =>
    obtain ⟨a, x⟩ := p
    have ha : i < a := h (a, x) (by simp)
    rw [Memory.read, if_neg (by omega)]
    exact ih fun q hq => h q (by simp [hq])

/-- A write lists no index but the old ones and its own. -/
theorem Memory.mem_write {m : Memory} {i : Nat} {e : PatchEntry} {p : Nat × PatchEntry} (h : p ∈ m.write i e) :
    p ∈ m ∨ p = (i, e) := by
  induction m with
  | nil => simp only [Memory.write] at h; split at h <;> simp_all
  | cons q m ih =>
    obtain ⟨a, x⟩ := q
    simp only [Memory.write] at h
    split at h
    · split at h <;> simp_all
      tauto
    · split at h
      · split at h <;> simp_all
        tauto
      · rcases List.mem_cons.mp h with rfl | h
        · simp
        · rcases ih h with h | h <;> simp [h]

/-- A write keeps the canonical form. -/
theorem Memory.wf_write {m : Memory} {i : Nat} {e : PatchEntry} (h : m.wf) (hi : i < 128) : (m.write i e).wf := by
  induction m with
  | nil =>
    simp only [Memory.write]
    split
    · exact h
    · rename_i he
      exact Memory.wf_cons.mpr ⟨⟨hi, he⟩, by simp, Memory.wf_nil⟩
  | cons q m ih =>
    obtain ⟨a, x⟩ := q
    obtain ⟨hx, hlt, hm⟩ := Memory.wf_cons.mp h
    simp only [Memory.write]
    split
    · rename_i hia
      split
      · exact h
      · rename_i he
        refine Memory.wf_cons.mpr ⟨⟨hi, he⟩, ?_, h⟩
        rintro p hp
        rcases List.mem_cons.mp hp with rfl | hp
        · exact hia
        · exact hia.trans (hlt p hp)
    · split
      · rename_i hia
        subst hia
        split
        · exact hm
        · rename_i he
          exact Memory.wf_cons.mpr ⟨⟨hi, he⟩, hlt, hm⟩
      · refine Memory.wf_cons.mpr ⟨hx, ?_, ih hm⟩
        intro p hp
        rcases Memory.mem_write hp with hp | rfl
        · exact hlt p hp
        · simp only; omega

/-- A read after a write: the entry written at its index, the old one elsewhere. -/
theorem Memory.read_write {m : Memory} {i j : Nat} {e : PatchEntry} (h : m.wf) :
    (m.write i e).read j = if i = j then e else m.read j := by
  induction m with
  | nil =>
    by_cases he : e = .unlisted <;> simp [Memory.write, Memory.read, he]
  | cons q m ih =>
    obtain ⟨a, x⟩ := q
    obtain ⟨hx, hlt, hm⟩ := Memory.wf_cons.mp h
    have hnone : ∀ k, k ≤ a → Memory.read m k = .unlisted := fun k hk =>
      Memory.read_of_lt fun p hp => Nat.lt_of_le_of_lt hk (hlt p hp)
    simp only [Memory.write]
    split
    · rename_i hia
      split
      · rename_i he
        subst he
        split
        · rename_i hij
          subst hij
          rw [Memory.read, if_neg (by omega), hnone i (by omega)]
        · rfl
      · rw [Memory.read]
    · split
      · rename_i hia
        subst hia
        split
        · rename_i he
          subst he
          split
          · rename_i hij
            subst hij
            exact hnone i (le_refl i)
          · rename_i hij
            rw [Memory.read, if_neg hij]
        · rw [Memory.read, Memory.read]
          split <;> rfl
      · rw [Memory.read, Memory.read, ih hm]
        by_cases haj : a = j
        · subst haj
          rw [if_pos rfl, if_neg (by omega), if_pos rfl]
        · rw [if_neg haj, if_neg haj]

/-- Clearing the valid bits lists only old indices, each invalid. -/
theorem Memory.mem_clearValid {m : Memory} {p : Nat × PatchEntry} (h : p ∈ m.clearValid) :
    p.2 ≠ .unlisted ∧ ∃ q ∈ m, q.1 = p.1 ∧ p.2 = { q.2 with valid := false } := by
  induction m with
  | nil => cases h
  | cons q m ih =>
    obtain ⟨a, x⟩ := q
    simp only [Memory.clearValid] at h
    split at h
    · obtain ⟨h1, r, hr, h2⟩ := ih h
      exact ⟨h1, r, by simp [hr], h2⟩
    · rename_i hx
      rcases List.mem_cons.mp h with rfl | h
      · exact ⟨hx, (a, x), by simp, rfl, rfl⟩
      · obtain ⟨h1, r, hr, h2⟩ := ih h
        exact ⟨h1, r, by simp [hr], h2⟩

/-- Clearing the valid bits keeps the canonical form. -/
theorem Memory.wf_clearValid {m : Memory} (h : m.wf) : m.clearValid.wf := by
  induction m with
  | nil => exact h
  | cons q m ih =>
    obtain ⟨a, x⟩ := q
    obtain ⟨hx, hlt, hm⟩ := Memory.wf_cons.mp h
    simp only [Memory.clearValid]
    split
    · exact ih hm
    · rename_i he
      refine Memory.wf_cons.mpr ⟨⟨hx.1, he⟩, ?_, ih hm⟩
      intro p hp
      obtain ⟨-, r, hr, h2, -⟩ := Memory.mem_clearValid hp
      rw [← h2]
      exact hlt r hr

/-- A read after a clear: the old entry with its valid bit 0. -/
theorem Memory.read_clearValid {m : Memory} {i : Nat} (h : m.wf) :
    m.clearValid.read i = { m.read i with valid := false } := by
  induction m with
  | nil => rfl
  | cons q m ih =>
    obtain ⟨a, x⟩ := q
    obtain ⟨-, hlt, hm⟩ := Memory.wf_cons.mp h
    simp only [Memory.clearValid]
    split
    · rename_i he
      rw [ih hm]
      by_cases hai : a = i
      · subst hai
        rw [Memory.read_of_lt hlt, Memory.read, if_pos rfl]
        exact he.symm
      · rw [Memory.read, if_neg hai]
    · rw [Memory.read, Memory.read, ih hm]
      split <;> rfl

/-- PatchWrite keeps both memories canonical (R43). -/
theorem State.patchWrite_wf {s : State} (sp : Space) (i : Data7) (e : PatchEntry) (hm : s.pmMel.wf)
    (hp : s.pmPerc.wf) : (s.patchWrite sp i e).pmMel.wf ∧ (s.patchWrite sp i e).pmPerc.wf := by
  cases sp
  · exact ⟨Memory.wf_write hm i.isLt, hp⟩
  · exact ⟨hm, Memory.wf_write hp i.isLt⟩

/-- After reset both memories list nothing, which is canonical (R27). -/
theorem State.reset_memories_wf (p : Params) : (State.resetWith p).pmMel.wf ∧ (State.resetWith p).pmPerc.wf :=
  ⟨Memory.wf_nil, Memory.wf_nil⟩

end Sys2Proof.Machine
end

