-- ==== Sys2Proof/Laws/State.lean ====
section
/-! SUPPORT. One lemma per field per update of the state, so that no proof unfolds a record update. -/

namespace Sys2Proof.Machine

/-! ## `CH[c] <- x` (R11) -/

@[simp] theorem State.setChan_par (s : State) (c : Chan) (x : Channel) : (s.setChan c x).par = s.par := rfl

@[simp] theorem State.setChan_clkN (s : State) (c : Chan) (x : Channel) : (s.setChan c x).clkN = s.clkN := rfl

@[simp] theorem State.setChan_mvol (s : State) (c : Chan) (x : Channel) : (s.setChan c x).mvol = s.mvol := rfl

@[simp] theorem State.setChan_dev (s : State) (c : Chan) (x : Channel) : (s.setChan c x).dev = s.dev := rfl

@[simp] theorem State.setChan_ch (s : State) (c : Chan) (x : Channel) :
    (s.setChan c x).ch = s.ch.set c.toNat x c.isLt := rfl

@[simp] theorem State.setChan_pmMel (s : State) (c : Chan) (x : Channel) : (s.setChan c x).pmMel = s.pmMel := rfl

@[simp] theorem State.setChan_pmPerc (s : State) (c : Chan) (x : Channel) : (s.setChan c x).pmPerc = s.pmPerc := rfl

@[simp] theorem State.setChan_vt (s : State) (c : Chan) (x : Channel) : (s.setChan c x).vt = s.vt := rfl

@[simp] theorem State.setChan_tails (s : State) (c : Chan) (x : Channel) : (s.setChan c x).tails = s.tails := rfl

@[simp] theorem State.setChan_wtc (s : State) (c : Chan) (x : Channel) : (s.setChan c x).wtc = s.wtc := rfl

@[simp] theorem State.setChan_outL (s : State) (c : Chan) (x : Channel) : (s.setChan c x).outL = s.outL := rfl

@[simp] theorem State.setChan_outR (s : State) (c : Chan) (x : Channel) : (s.setChan c x).outR = s.outR := rfl

@[simp] theorem State.setChan_sched (s : State) (c : Chan) (x : Channel) : (s.setChan c x).sched = s.sched := rfl

@[simp] theorem State.setChan_port (s : State) (c : Chan) (x : Channel) : (s.setChan c x).port = s.port := rfl

@[simp] theorem State.setChan_env (s : State) (c : Chan) (x : Channel) : (s.setChan c x).env = s.env := rfl

/-! ## `PM[space] <- m` (R40) -/

@[simp] theorem State.setPatches_par (s : State) (sp : Space) (m : Memory) : (s.setPatches sp m).par = s.par := by cases sp <;> rfl

@[simp] theorem State.setPatches_clkN (s : State) (sp : Space) (m : Memory) : (s.setPatches sp m).clkN = s.clkN := by cases sp <;> rfl

@[simp] theorem State.setPatches_mvol (s : State) (sp : Space) (m : Memory) : (s.setPatches sp m).mvol = s.mvol := by cases sp <;> rfl

@[simp] theorem State.setPatches_dev (s : State) (sp : Space) (m : Memory) : (s.setPatches sp m).dev = s.dev := by cases sp <;> rfl

@[simp] theorem State.setPatches_ch (s : State) (sp : Space) (m : Memory) : (s.setPatches sp m).ch = s.ch := by cases sp <;> rfl

@[simp] theorem State.setPatches_vt (s : State) (sp : Space) (m : Memory) : (s.setPatches sp m).vt = s.vt := by cases sp <;> rfl

@[simp] theorem State.setPatches_tails (s : State) (sp : Space) (m : Memory) : (s.setPatches sp m).tails = s.tails := by cases sp <;> rfl

@[simp] theorem State.setPatches_wtc (s : State) (sp : Space) (m : Memory) : (s.setPatches sp m).wtc = s.wtc := by cases sp <;> rfl

@[simp] theorem State.setPatches_outL (s : State) (sp : Space) (m : Memory) : (s.setPatches sp m).outL = s.outL := by cases sp <;> rfl

@[simp] theorem State.setPatches_outR (s : State) (sp : Space) (m : Memory) : (s.setPatches sp m).outR = s.outR := by cases sp <;> rfl

@[simp] theorem State.setPatches_sched (s : State) (sp : Space) (m : Memory) : (s.setPatches sp m).sched = s.sched := by cases sp <;> rfl

@[simp] theorem State.setPatches_port (s : State) (sp : Space) (m : Memory) : (s.setPatches sp m).port = s.port := by cases sp <;> rfl

@[simp] theorem State.setPatches_env (s : State) (sp : Space) (m : Memory) : (s.setPatches sp m).env = s.env := by cases sp <;> rfl

/-! ## PatchWrite (R43) -/

@[simp] theorem State.patchWrite_par (s : State) (sp : Space) (i : Data7) (e : PatchEntry) : (s.patchWrite sp i e).par = s.par := by cases sp <;> rfl

@[simp] theorem State.patchWrite_clkN (s : State) (sp : Space) (i : Data7) (e : PatchEntry) : (s.patchWrite sp i e).clkN = s.clkN := by cases sp <;> rfl

@[simp] theorem State.patchWrite_mvol (s : State) (sp : Space) (i : Data7) (e : PatchEntry) : (s.patchWrite sp i e).mvol = s.mvol := by cases sp <;> rfl

@[simp] theorem State.patchWrite_dev (s : State) (sp : Space) (i : Data7) (e : PatchEntry) : (s.patchWrite sp i e).dev = s.dev := by cases sp <;> rfl

@[simp] theorem State.patchWrite_ch (s : State) (sp : Space) (i : Data7) (e : PatchEntry) : (s.patchWrite sp i e).ch = s.ch := by cases sp <;> rfl

@[simp] theorem State.patchWrite_vt (s : State) (sp : Space) (i : Data7) (e : PatchEntry) : (s.patchWrite sp i e).vt = s.vt := by cases sp <;> rfl

@[simp] theorem State.patchWrite_tails (s : State) (sp : Space) (i : Data7) (e : PatchEntry) : (s.patchWrite sp i e).tails = s.tails := by cases sp <;> rfl

@[simp] theorem State.patchWrite_wtc (s : State) (sp : Space) (i : Data7) (e : PatchEntry) : (s.patchWrite sp i e).wtc = s.wtc := by cases sp <;> rfl

@[simp] theorem State.patchWrite_outL (s : State) (sp : Space) (i : Data7) (e : PatchEntry) : (s.patchWrite sp i e).outL = s.outL := by cases sp <;> rfl

@[simp] theorem State.patchWrite_outR (s : State) (sp : Space) (i : Data7) (e : PatchEntry) : (s.patchWrite sp i e).outR = s.outR := by cases sp <;> rfl

@[simp] theorem State.patchWrite_sched (s : State) (sp : Space) (i : Data7) (e : PatchEntry) : (s.patchWrite sp i e).sched = s.sched := by cases sp <;> rfl

@[simp] theorem State.patchWrite_port (s : State) (sp : Space) (i : Data7) (e : PatchEntry) : (s.patchWrite sp i e).port = s.port := by cases sp <;> rfl

@[simp] theorem State.patchWrite_env (s : State) (sp : Space) (i : Data7) (e : PatchEntry) : (s.patchWrite sp i e).env = s.env := by cases sp <;> rfl

/-! ## Fetching a table (R152) -/

@[simp] theorem State.fetchTable_par (s : State) (w : BitVec 2) (fb : BitVec 3) : (s.fetchTable w fb).par = s.par := by unfold State.fetchTable; dsimp only; split <;> rfl

@[simp] theorem State.fetchTable_clkN (s : State) (w : BitVec 2) (fb : BitVec 3) : (s.fetchTable w fb).clkN = s.clkN := by unfold State.fetchTable; dsimp only; split <;> rfl

@[simp] theorem State.fetchTable_mvol (s : State) (w : BitVec 2) (fb : BitVec 3) : (s.fetchTable w fb).mvol = s.mvol := by unfold State.fetchTable; dsimp only; split <;> rfl

@[simp] theorem State.fetchTable_dev (s : State) (w : BitVec 2) (fb : BitVec 3) : (s.fetchTable w fb).dev = s.dev := by unfold State.fetchTable; dsimp only; split <;> rfl

@[simp] theorem State.fetchTable_ch (s : State) (w : BitVec 2) (fb : BitVec 3) : (s.fetchTable w fb).ch = s.ch := by unfold State.fetchTable; dsimp only; split <;> rfl

@[simp] theorem State.fetchTable_pmMel (s : State) (w : BitVec 2) (fb : BitVec 3) : (s.fetchTable w fb).pmMel = s.pmMel := by unfold State.fetchTable; dsimp only; split <;> rfl

@[simp] theorem State.fetchTable_pmPerc (s : State) (w : BitVec 2) (fb : BitVec 3) : (s.fetchTable w fb).pmPerc = s.pmPerc := by unfold State.fetchTable; dsimp only; split <;> rfl

@[simp] theorem State.fetchTable_vt (s : State) (w : BitVec 2) (fb : BitVec 3) : (s.fetchTable w fb).vt = s.vt := by unfold State.fetchTable; dsimp only; split <;> rfl

@[simp] theorem State.fetchTable_tails (s : State) (w : BitVec 2) (fb : BitVec 3) : (s.fetchTable w fb).tails = s.tails := by unfold State.fetchTable; dsimp only; split <;> rfl

@[simp] theorem State.fetchTable_outL (s : State) (w : BitVec 2) (fb : BitVec 3) : (s.fetchTable w fb).outL = s.outL := by unfold State.fetchTable; dsimp only; split <;> rfl

@[simp] theorem State.fetchTable_outR (s : State) (w : BitVec 2) (fb : BitVec 3) : (s.fetchTable w fb).outR = s.outR := by unfold State.fetchTable; dsimp only; split <;> rfl

@[simp] theorem State.fetchTable_sched (s : State) (w : BitVec 2) (fb : BitVec 3) : (s.fetchTable w fb).sched = s.sched := by unfold State.fetchTable; dsimp only; split <;> rfl

@[simp] theorem State.fetchTable_port (s : State) (w : BitVec 2) (fb : BitVec 3) : (s.fetchTable w fb).port = s.port := by unfold State.fetchTable; dsimp only; split <;> rfl

@[simp] theorem State.fetchTable_env (s : State) (w : BitVec 2) (fb : BitVec 3) : (s.fetchTable w fb).env = s.env := by unfold State.fetchTable; dsimp only; split <;> rfl

/-! ## `purge` (R183) -/

@[simp] theorem State.purge_par (s : State) : (s.purge).par = s.par := rfl

@[simp] theorem State.purge_clkN (s : State) : (s.purge).clkN = s.clkN := rfl

@[simp] theorem State.purge_mvol (s : State) : (s.purge).mvol = s.mvol := rfl

@[simp] theorem State.purge_dev (s : State) : (s.purge).dev = s.dev := rfl

@[simp] theorem State.purge_ch (s : State) : (s.purge).ch = s.ch := rfl

@[simp] theorem State.purge_pmMel (s : State) : (s.purge).pmMel = s.pmMel := rfl

@[simp] theorem State.purge_pmPerc (s : State) : (s.purge).pmPerc = s.pmPerc := rfl

@[simp] theorem State.purge_vt (s : State) :
    (s.purge).vt = s.vt.filter fun v => !stoppedBy v.stop s.clk := rfl

@[simp] theorem State.purge_tails (s : State) :
    (s.purge).tails = s.tails.filter fun v => !stoppedBy v.stop s.clk := rfl

@[simp] theorem State.purge_wtc (s : State) : (s.purge).wtc = s.wtc := rfl

@[simp] theorem State.purge_outL (s : State) : (s.purge).outL = s.outL := rfl

@[simp] theorem State.purge_outR (s : State) : (s.purge).outR = s.outR := rfl

@[simp] theorem State.purge_sched (s : State) : (s.purge).sched = s.sched := rfl

@[simp] theorem State.purge_port (s : State) : (s.purge).port = s.port := rfl

@[simp] theorem State.purge_env (s : State) : (s.purge).env = s.env := rfl

/-! ## `hardStop` of a voice taken from `VT` (R186) -/

@[simp] theorem State.hardStopInto_par (s : State) (v : Voice) (t : Rat) : (s.hardStopInto v t).par = s.par := rfl

@[simp] theorem State.hardStopInto_clkN (s : State) (v : Voice) (t : Rat) : (s.hardStopInto v t).clkN = s.clkN := rfl

@[simp] theorem State.hardStopInto_mvol (s : State) (v : Voice) (t : Rat) : (s.hardStopInto v t).mvol = s.mvol := rfl

@[simp] theorem State.hardStopInto_dev (s : State) (v : Voice) (t : Rat) : (s.hardStopInto v t).dev = s.dev := rfl

@[simp] theorem State.hardStopInto_ch (s : State) (v : Voice) (t : Rat) : (s.hardStopInto v t).ch = s.ch := rfl

@[simp] theorem State.hardStopInto_pmMel (s : State) (v : Voice) (t : Rat) : (s.hardStopInto v t).pmMel = s.pmMel := rfl

@[simp] theorem State.hardStopInto_pmPerc (s : State) (v : Voice) (t : Rat) : (s.hardStopInto v t).pmPerc = s.pmPerc := rfl

@[simp] theorem State.hardStopInto_vt (s : State) (v : Voice) (t : Rat) : (s.hardStopInto v t).vt = s.vt := rfl

@[simp] theorem State.hardStopInto_tails (s : State) (v : Voice) (t : Rat) :
    (s.hardStopInto v t).tails = s.tails ++ [v.hardStoppedTail s.par t] := rfl

@[simp] theorem State.hardStopInto_wtc (s : State) (v : Voice) (t : Rat) : (s.hardStopInto v t).wtc = s.wtc := rfl

@[simp] theorem State.hardStopInto_outL (s : State) (v : Voice) (t : Rat) : (s.hardStopInto v t).outL = s.outL := rfl

@[simp] theorem State.hardStopInto_outR (s : State) (v : Voice) (t : Rat) : (s.hardStopInto v t).outR = s.outR := rfl

@[simp] theorem State.hardStopInto_sched (s : State) (v : Voice) (t : Rat) : (s.hardStopInto v t).sched = s.sched := rfl

@[simp] theorem State.hardStopInto_port (s : State) (v : Voice) (t : Rat) : (s.hardStopInto v t).port = s.port := rfl

@[simp] theorem State.hardStopInto_env (s : State) (v : Voice) (t : Rat) : (s.hardStopInto v t).env = s.env := rfl

/-! ## Removing a voice from `VT` -/

@[simp] theorem State.dropVoice_par (s : State) (k : Key) : (s.dropVoice k).par = s.par := rfl

@[simp] theorem State.dropVoice_clkN (s : State) (k : Key) : (s.dropVoice k).clkN = s.clkN := rfl

@[simp] theorem State.dropVoice_mvol (s : State) (k : Key) : (s.dropVoice k).mvol = s.mvol := rfl

@[simp] theorem State.dropVoice_dev (s : State) (k : Key) : (s.dropVoice k).dev = s.dev := rfl

@[simp] theorem State.dropVoice_ch (s : State) (k : Key) : (s.dropVoice k).ch = s.ch := rfl

@[simp] theorem State.dropVoice_pmMel (s : State) (k : Key) : (s.dropVoice k).pmMel = s.pmMel := rfl

@[simp] theorem State.dropVoice_pmPerc (s : State) (k : Key) : (s.dropVoice k).pmPerc = s.pmPerc := rfl

@[simp] theorem State.dropVoice_vt (s : State) (k : Key) :
    (s.dropVoice k).vt = s.vt.eraseP fun v => v.key = k := rfl

@[simp] theorem State.dropVoice_tails (s : State) (k : Key) : (s.dropVoice k).tails = s.tails := rfl

@[simp] theorem State.dropVoice_wtc (s : State) (k : Key) : (s.dropVoice k).wtc = s.wtc := rfl

@[simp] theorem State.dropVoice_outL (s : State) (k : Key) : (s.dropVoice k).outL = s.outL := rfl

@[simp] theorem State.dropVoice_outR (s : State) (k : Key) : (s.dropVoice k).outR = s.outR := rfl

@[simp] theorem State.dropVoice_sched (s : State) (k : Key) : (s.dropVoice k).sched = s.sched := rfl

@[simp] theorem State.dropVoice_port (s : State) (k : Key) : (s.dropVoice k).port = s.port := rfl

@[simp] theorem State.dropVoice_env (s : State) (k : Key) : (s.dropVoice k).env = s.env := rfl

/-! ## `release` by key (R193) -/

@[simp] theorem State.releaseKey_par (s : State) (k : Key) (t : Rat) : (s.releaseKey k t).par = s.par := by unfold State.releaseKey; split <;> rfl

@[simp] theorem State.releaseKey_clkN (s : State) (k : Key) (t : Rat) : (s.releaseKey k t).clkN = s.clkN := by unfold State.releaseKey; split <;> rfl

@[simp] theorem State.releaseKey_mvol (s : State) (k : Key) (t : Rat) : (s.releaseKey k t).mvol = s.mvol := by unfold State.releaseKey; split <;> rfl

@[simp] theorem State.releaseKey_dev (s : State) (k : Key) (t : Rat) : (s.releaseKey k t).dev = s.dev := by unfold State.releaseKey; split <;> rfl

@[simp] theorem State.releaseKey_ch (s : State) (k : Key) (t : Rat) : (s.releaseKey k t).ch = s.ch := by unfold State.releaseKey; split <;> rfl

@[simp] theorem State.releaseKey_pmMel (s : State) (k : Key) (t : Rat) : (s.releaseKey k t).pmMel = s.pmMel := by unfold State.releaseKey; split <;> rfl

@[simp] theorem State.releaseKey_pmPerc (s : State) (k : Key) (t : Rat) : (s.releaseKey k t).pmPerc = s.pmPerc := by unfold State.releaseKey; split <;> rfl

@[simp] theorem State.releaseKey_wtc (s : State) (k : Key) (t : Rat) : (s.releaseKey k t).wtc = s.wtc := by unfold State.releaseKey; split <;> rfl

@[simp] theorem State.releaseKey_outL (s : State) (k : Key) (t : Rat) : (s.releaseKey k t).outL = s.outL := by unfold State.releaseKey; split <;> rfl

@[simp] theorem State.releaseKey_outR (s : State) (k : Key) (t : Rat) : (s.releaseKey k t).outR = s.outR := by unfold State.releaseKey; split <;> rfl

@[simp] theorem State.releaseKey_sched (s : State) (k : Key) (t : Rat) : (s.releaseKey k t).sched = s.sched := by unfold State.releaseKey; split <;> rfl

@[simp] theorem State.releaseKey_port (s : State) (k : Key) (t : Rat) : (s.releaseKey k t).port = s.port := by unfold State.releaseKey; split <;> rfl

@[simp] theorem State.releaseKey_env (s : State) (k : Key) (t : Rat) : (s.releaseKey k t).env = s.env := by unfold State.releaseKey; split <;> rfl

/-! ## Re-trigger (R194) -/

@[simp] theorem State.retrigger_par (s : State) (k : Key) (t : Rat) : (s.retrigger k t).par = s.par := by unfold State.retrigger; split <;> rfl

@[simp] theorem State.retrigger_clkN (s : State) (k : Key) (t : Rat) : (s.retrigger k t).clkN = s.clkN := by unfold State.retrigger; split <;> rfl

@[simp] theorem State.retrigger_mvol (s : State) (k : Key) (t : Rat) : (s.retrigger k t).mvol = s.mvol := by unfold State.retrigger; split <;> rfl

@[simp] theorem State.retrigger_dev (s : State) (k : Key) (t : Rat) : (s.retrigger k t).dev = s.dev := by unfold State.retrigger; split <;> rfl

@[simp] theorem State.retrigger_ch (s : State) (k : Key) (t : Rat) : (s.retrigger k t).ch = s.ch := by unfold State.retrigger; split <;> rfl

@[simp] theorem State.retrigger_pmMel (s : State) (k : Key) (t : Rat) : (s.retrigger k t).pmMel = s.pmMel := by unfold State.retrigger; split <;> rfl

@[simp] theorem State.retrigger_pmPerc (s : State) (k : Key) (t : Rat) : (s.retrigger k t).pmPerc = s.pmPerc := by unfold State.retrigger; split <;> rfl

@[simp] theorem State.retrigger_wtc (s : State) (k : Key) (t : Rat) : (s.retrigger k t).wtc = s.wtc := by unfold State.retrigger; split <;> rfl

@[simp] theorem State.retrigger_outL (s : State) (k : Key) (t : Rat) : (s.retrigger k t).outL = s.outL := by unfold State.retrigger; split <;> rfl

@[simp] theorem State.retrigger_outR (s : State) (k : Key) (t : Rat) : (s.retrigger k t).outR = s.outR := by unfold State.retrigger; split <;> rfl

@[simp] theorem State.retrigger_sched (s : State) (k : Key) (t : Rat) : (s.retrigger k t).sched = s.sched := by unfold State.retrigger; split <;> rfl

@[simp] theorem State.retrigger_port (s : State) (k : Key) (t : Rat) : (s.retrigger k t).port = s.port := by unfold State.retrigger; split <;> rfl

@[simp] theorem State.retrigger_env (s : State) (k : Key) (t : Rat) : (s.retrigger k t).env = s.env := by unfold State.retrigger; split <;> rfl

/-! ## Eviction (R195) -/

@[simp] theorem State.evict_par (s : State) (t : Rat) : (s.evict t).par = s.par := by
  unfold State.evict
  split
  · rfl
  · split <;> rfl

@[simp] theorem State.evict_clkN (s : State) (t : Rat) : (s.evict t).clkN = s.clkN := by
  unfold State.evict
  split
  · rfl
  · split <;> rfl

@[simp] theorem State.evict_mvol (s : State) (t : Rat) : (s.evict t).mvol = s.mvol := by
  unfold State.evict
  split
  · rfl
  · split <;> rfl

@[simp] theorem State.evict_dev (s : State) (t : Rat) : (s.evict t).dev = s.dev := by
  unfold State.evict
  split
  · rfl
  · split <;> rfl

@[simp] theorem State.evict_ch (s : State) (t : Rat) : (s.evict t).ch = s.ch := by
  unfold State.evict
  split
  · rfl
  · split <;> rfl

@[simp] theorem State.evict_pmMel (s : State) (t : Rat) : (s.evict t).pmMel = s.pmMel := by
  unfold State.evict
  split
  · rfl
  · split <;> rfl

@[simp] theorem State.evict_pmPerc (s : State) (t : Rat) : (s.evict t).pmPerc = s.pmPerc := by
  unfold State.evict
  split
  · rfl
  · split <;> rfl

@[simp] theorem State.evict_wtc (s : State) (t : Rat) : (s.evict t).wtc = s.wtc := by
  unfold State.evict
  split
  · rfl
  · split <;> rfl

@[simp] theorem State.evict_outL (s : State) (t : Rat) : (s.evict t).outL = s.outL := by
  unfold State.evict
  split
  · rfl
  · split <;> rfl

@[simp] theorem State.evict_outR (s : State) (t : Rat) : (s.evict t).outR = s.outR := by
  unfold State.evict
  split
  · rfl
  · split <;> rfl

@[simp] theorem State.evict_sched (s : State) (t : Rat) : (s.evict t).sched = s.sched := by
  unfold State.evict
  split
  · rfl
  · split <;> rfl

@[simp] theorem State.evict_port (s : State) (t : Rat) : (s.evict t).port = s.port := by
  unfold State.evict
  split
  · rfl
  · split <;> rfl

@[simp] theorem State.evict_env (s : State) (t : Rat) : (s.evict t).env = s.env := by
  unfold State.evict
  split
  · rfl
  · split <;> rfl

/-! ## `retarget` (R172) -/

@[simp] theorem State.retarget_par (s : State) (c : Chan) (t cents : Rat) : (s.retarget c t cents).par = s.par := by unfold State.retarget; split <;> rfl

@[simp] theorem State.retarget_clkN (s : State) (c : Chan) (t cents : Rat) : (s.retarget c t cents).clkN = s.clkN := by unfold State.retarget; split <;> rfl

@[simp] theorem State.retarget_mvol (s : State) (c : Chan) (t cents : Rat) : (s.retarget c t cents).mvol = s.mvol := by unfold State.retarget; split <;> rfl

@[simp] theorem State.retarget_dev (s : State) (c : Chan) (t cents : Rat) : (s.retarget c t cents).dev = s.dev := by unfold State.retarget; split <;> rfl

@[simp] theorem State.retarget_ch (s : State) (c : Chan) (t cents : Rat) : (s.retarget c t cents).ch = s.ch := by unfold State.retarget; split <;> rfl

@[simp] theorem State.retarget_pmMel (s : State) (c : Chan) (t cents : Rat) : (s.retarget c t cents).pmMel = s.pmMel := by unfold State.retarget; split <;> rfl

@[simp] theorem State.retarget_pmPerc (s : State) (c : Chan) (t cents : Rat) : (s.retarget c t cents).pmPerc = s.pmPerc := by unfold State.retarget; split <;> rfl

@[simp] theorem State.retarget_tails (s : State) (c : Chan) (t cents : Rat) : (s.retarget c t cents).tails = s.tails := by unfold State.retarget; split <;> rfl

@[simp] theorem State.retarget_wtc (s : State) (c : Chan) (t cents : Rat) : (s.retarget c t cents).wtc = s.wtc := by unfold State.retarget; split <;> rfl

@[simp] theorem State.retarget_outL (s : State) (c : Chan) (t cents : Rat) : (s.retarget c t cents).outL = s.outL := by unfold State.retarget; split <;> rfl

@[simp] theorem State.retarget_outR (s : State) (c : Chan) (t cents : Rat) : (s.retarget c t cents).outR = s.outR := by unfold State.retarget; split <;> rfl

@[simp] theorem State.retarget_sched (s : State) (c : Chan) (t cents : Rat) : (s.retarget c t cents).sched = s.sched := by unfold State.retarget; split <;> rfl

@[simp] theorem State.retarget_port (s : State) (c : Chan) (t cents : Rat) : (s.retarget c t cents).port = s.port := by unfold State.retarget; split <;> rfl

@[simp] theorem State.retarget_env (s : State) (c : Chan) (t cents : Rat) : (s.retarget c t cents).env = s.env := by unfold State.retarget; split <;> rfl

/-! ## ALL_STOP after its purge (R261) -/

@[simp] theorem State.silence_par (s : State) : (s.silence).par = s.par := rfl

@[simp] theorem State.silence_clkN (s : State) : (s.silence).clkN = s.clkN := rfl

@[simp] theorem State.silence_mvol (s : State) : (s.silence).mvol = s.mvol := rfl

@[simp] theorem State.silence_dev (s : State) : (s.silence).dev = s.dev := rfl

@[simp] theorem State.silence_ch (s : State) : (s.silence).ch = s.ch := rfl

@[simp] theorem State.silence_pmMel (s : State) : (s.silence).pmMel = s.pmMel := rfl

@[simp] theorem State.silence_pmPerc (s : State) : (s.silence).pmPerc = s.pmPerc := rfl

@[simp] theorem State.silence_vt (s : State) :
    (s.silence).vt = [] := rfl

@[simp] theorem State.silence_tails (s : State) :
    (s.silence).tails = (s.tails ++ s.vt).map (·.hardStoppedTail s.par s.clk) := rfl

@[simp] theorem State.silence_wtc (s : State) : (s.silence).wtc = s.wtc := rfl

@[simp] theorem State.silence_outL (s : State) : (s.silence).outL = s.outL := rfl

@[simp] theorem State.silence_outR (s : State) : (s.silence).outR = s.outR := rfl

@[simp] theorem State.silence_sched (s : State) : (s.silence).sched = s.sched := rfl

@[simp] theorem State.silence_port (s : State) : (s.silence).port = s.port := rfl

@[simp] theorem State.silence_env (s : State) : (s.silence).env = s.env := rfl

/-! ## The sample tick (R220) -/

@[simp] theorem State.sampleTick_par (s : State) : (s.sampleTick).par = s.par := rfl

@[simp] theorem State.sampleTick_clkN (s : State) :
    (s.sampleTick).clkN = s.clkN + 1 := rfl

@[simp] theorem State.sampleTick_mvol (s : State) : (s.sampleTick).mvol = s.mvol := rfl

@[simp] theorem State.sampleTick_dev (s : State) : (s.sampleTick).dev = s.dev := rfl

@[simp] theorem State.sampleTick_ch (s : State) : (s.sampleTick).ch = s.ch := rfl

@[simp] theorem State.sampleTick_pmMel (s : State) : (s.sampleTick).pmMel = s.pmMel := rfl

@[simp] theorem State.sampleTick_pmPerc (s : State) : (s.sampleTick).pmPerc = s.pmPerc := rfl

@[simp] theorem State.sampleTick_vt (s : State) :
    (s.sampleTick).vt = s.vt.map (·.ticked s.par s.clk) := rfl

@[simp] theorem State.sampleTick_tails (s : State) :
    (s.sampleTick).tails = s.tails.map (·.ticked s.par s.clk) := rfl

@[simp] theorem State.sampleTick_wtc (s : State) : (s.sampleTick).wtc = s.wtc := rfl

@[simp] theorem State.sampleTick_outL (s : State) :
    (s.sampleTick).outL = s.mixL s.clk := rfl

@[simp] theorem State.sampleTick_outR (s : State) :
    (s.sampleTick).outR = s.mixR s.clk := rfl

@[simp] theorem State.sampleTick_sched (s : State) : (s.sampleTick).sched = s.sched := rfl

@[simp] theorem State.sampleTick_port (s : State) : (s.sampleTick).port = s.port := rfl

@[simp] theorem State.sampleTick_env (s : State) : (s.sampleTick).env = s.env := rfl

/-! ## A host operation (R280) -/

@[simp] theorem State.issue_par (s : State) (h : Scheduler) (ws : List PortWord) : (s.issue h ws).par = s.par := rfl

@[simp] theorem State.issue_clkN (s : State) (h : Scheduler) (ws : List PortWord) : (s.issue h ws).clkN = s.clkN := rfl

@[simp] theorem State.issue_mvol (s : State) (h : Scheduler) (ws : List PortWord) : (s.issue h ws).mvol = s.mvol := rfl

@[simp] theorem State.issue_dev (s : State) (h : Scheduler) (ws : List PortWord) : (s.issue h ws).dev = s.dev := rfl

@[simp] theorem State.issue_ch (s : State) (h : Scheduler) (ws : List PortWord) : (s.issue h ws).ch = s.ch := rfl

@[simp] theorem State.issue_pmMel (s : State) (h : Scheduler) (ws : List PortWord) : (s.issue h ws).pmMel = s.pmMel := rfl

@[simp] theorem State.issue_pmPerc (s : State) (h : Scheduler) (ws : List PortWord) : (s.issue h ws).pmPerc = s.pmPerc := rfl

@[simp] theorem State.issue_vt (s : State) (h : Scheduler) (ws : List PortWord) : (s.issue h ws).vt = s.vt := rfl

@[simp] theorem State.issue_tails (s : State) (h : Scheduler) (ws : List PortWord) : (s.issue h ws).tails = s.tails := rfl

@[simp] theorem State.issue_wtc (s : State) (h : Scheduler) (ws : List PortWord) : (s.issue h ws).wtc = s.wtc := rfl

@[simp] theorem State.issue_outL (s : State) (h : Scheduler) (ws : List PortWord) : (s.issue h ws).outL = s.outL := rfl

@[simp] theorem State.issue_outR (s : State) (h : Scheduler) (ws : List PortWord) : (s.issue h ws).outR = s.outR := rfl

@[simp] theorem State.issue_sched (s : State) (h : Scheduler) (ws : List PortWord) :
    (s.issue h ws).sched = h := rfl

@[simp] theorem State.issue_port (s : State) (h : Scheduler) (ws : List PortWord) :
    (s.issue h ws).port = s.port ++ ws := rfl

@[simp] theorem State.issue_env (s : State) (h : Scheduler) (ws : List PortWord) : (s.issue h ws).env = s.env := rfl

/-! ## Reset (R27, R351) -/

@[simp] theorem State.resetEvent_par (s : State) : s.resetEvent.par = s.par := rfl

@[simp] theorem State.resetEvent_clkN (s : State) : s.resetEvent.clkN = 0 := rfl

@[simp] theorem State.resetEvent_vt (s : State) : s.resetEvent.vt = [] := rfl

@[simp] theorem State.resetEvent_tails (s : State) : s.resetEvent.tails = [] := rfl

@[simp] theorem State.resetEvent_env (s : State) : s.resetEvent.env = s.env := rfl

/-! ## Derived reads -/

/-- The device-clock time is a function of the counter and `FS` (R14). -/
theorem State.clk_congr {s s' : State} (hp : s'.par = s.par) (hn : s'.clkN = s.clkN) : s'.clk = s.clk := by
  unfold State.clk; rw [hp, hn]

@[simp] theorem State.purge_clk (s : State) : s.purge.clk = s.clk := rfl

@[simp] theorem State.setChan_clk (s : State) (c : Chan) (x : Channel) : (s.setChan c x).clk = s.clk := rfl

@[simp] theorem State.purge_chan (s : State) (c : Chan) : s.purge.chan c = s.chan c := rfl

@[simp] theorem State.chan_setChan_self (s : State) (c : Chan) (x : Channel) : (s.setChan c x).chan c = x := by
  simp [State.chan, State.setChan]

theorem State.chan_setChan_ne (s : State) {c d : Chan} (x : Channel) (h : d ≠ c) :
    (s.setChan c x).chan d = s.chan d := by
  have : c.toNat ≠ d.toNat := fun e => h (BitVec.eq_of_toNat_eq e.symm)
  simp [State.chan, State.setChan, this]

end Sys2Proof.Machine
end

