-- ==== Sys2Proof/Laws/Ops.lean ====
section
/-! SUPPORT. For each shared operation, one lemma that says everything it can do; the provers cite these instead of
unfolding the operation. -/

namespace Sys2Proof.Machine

/-! ## Stop times -/

theorem stoppedBy_some (m : Moment) (t : Rat) : stoppedBy (some m) t = m.atOrBefore t := rfl

theorem stoppedBy_none (t : Rat) : stoppedBy none t = false := rfl

/-- A rational stop time is at or before a time as the rationals say. -/
theorem Moment.atOrBefore_ofRat (q t : Rat) : (Moment.ofRat q).atOrBefore t = decide (q ≤ t) := by
  by_cases h : q ≤ t <;> simp [Moment.atOrBefore, Moment.ofRat, Dur.le, Dur.ofRat, h]
  have := sub_pos.mpr (not_le.mp h)
  positivity

/-! ## Purge (R183) -/

theorem State.mem_purge_vt {s : State} {v : Voice} :
    v ∈ s.purge.vt ↔ v ∈ s.vt ∧ stoppedBy v.stop s.clk = false := by
  simp

theorem State.mem_purge_tails {s : State} {v : Voice} :
    v ∈ s.purge.tails ↔ v ∈ s.tails ∧ stoppedBy v.stop s.clk = false := by
  simp

/-! ## Hard-stop (R186) -/

/-- The fade starts at `t` or, if one was set earlier, then (R186). -/
theorem Voice.fadeStart_eq (v : Voice) (t : Rat) : v.fadeStart t = v.hs.elim t (min t) := by
  unfold Voice.fadeStart
  split <;> rename_i h
  · simp [h]
  · rename_i x
    rw [h, Option.elim_some, min_def]
    split <;> split <;> first | rfl | linarith

theorem Voice.fadeStart_le (v : Voice) (t : Rat) : v.fadeStart t ≤ t := by
  rw [Voice.fadeStart_eq]
  cases v.hs <;> simp

/-- The stop time after a hard-stop: the fade's end, or the old one where that comes first (R186). -/
theorem Voice.fadeStop_cases (p : Params) (v : Voice) (t : Rat) :
    (v.fadeStop p t = Moment.ofRat (v.fadeStart t + p.hardStopS) ∧
        stoppedBy v.stop (v.fadeStart t + p.hardStopS) = false) ∨
      (v.stop = some (v.fadeStop p t) ∧ (v.fadeStop p t).atOrBefore (v.fadeStart t + p.hardStopS) = true) := by
  unfold Voice.fadeStop
  cases v.stop with
  | none => exact .inl ⟨rfl, rfl⟩
  | some m => by_cases hm : m.atOrBefore (v.fadeStart t + p.hardStopS) = true <;> simp [hm, stoppedBy]

/-- What `hardStop` does to a voice that it stops (R186): a fade start and a stop time, nothing else. -/
theorem Voice.hardStopped_eq_some {p : Params} {t : Rat} {v w : Voice} :
    v.hardStopped p t = some w ↔
      stoppedBy v.stop t = false ∧ w = { v with hs := some (v.fadeStart t), stop := some (v.fadeStop p t) } := by
  unfold Voice.hardStopped
  split
  · rename_i h
    simp [h]
  · rename_i h
    rw [Option.some.injEq]
    exact ⟨fun e => ⟨by simpa using h, e.symm⟩, fun e => e.2.symm⟩

/-- `hardStop` returns at once exactly for a voice already finished by then (R186, first line). -/
theorem Voice.hardStopped_eq_none {p : Params} {t : Rat} {v : Voice} :
    v.hardStopped p t = none ↔ stoppedBy v.stop t = true := by
  unfold Voice.hardStopped
  split <;> simp_all

/-- A voice that `hardStop` gets: unchanged where finished by then, else with a fade start and a stop time (R186). -/
theorem Voice.hardStoppedTail_eq (p : Params) (t : Rat) (v : Voice) :
    v.hardStoppedTail p t =
      if stoppedBy v.stop t then v else { v with hs := some (v.fadeStart t), stop := some (v.fadeStop p t) } := by
  unfold Voice.hardStoppedTail Voice.hardStopped
  split <;> rfl

/-! ## The registry (R21) -/

theorem State.findVoice_some {s : State} {k : Key} {v : Voice} (h : s.findVoice k = some v) : v ∈ s.vt ∧ v.key = k :=
  ⟨List.mem_of_find?_eq_some h, by simpa using List.find?_some h⟩

theorem State.findVoice_none {s : State} {k : Key} : s.findVoice k = none ↔ ∀ v ∈ s.vt, v.key ≠ k := by
  simp [State.findVoice]

/-- `release` by key, where the registry has the key (R193). -/
theorem State.releaseKey_of_some {s : State} {k : Key} {t : Rat} {v : Voice} (h : s.findVoice k = some v) :
    s.releaseKey k t = { s with vt := s.vt.eraseP fun v => v.key = k, tails := s.tails ++ [v.released s.par t] } := by
  simp [State.releaseKey, h, State.dropVoice]

/-- `release` by key, where the registry has it not (R192, step 3). -/
theorem State.releaseKey_of_none {s : State} {k : Key} {t : Rat} (h : s.findVoice k = none) :
    s.releaseKey k t = s := by
  simp [State.releaseKey, h]

/-- Re-trigger, where the registry has the key (R194). -/
theorem State.retrigger_of_some {s : State} {k : Key} {t : Rat} {v : Voice} (h : s.findVoice k = some v) :
    s.retrigger k t =
      { s with vt := s.vt.eraseP fun v => v.key = k, tails := s.tails ++ [v.hardStoppedTail s.par t] } := by
  simp [State.retrigger, h, State.dropVoice, State.hardStopInto]

/-- No re-trigger without the key (R180, step 5). -/
theorem State.retrigger_of_none {s : State} {k : Key} {t : Rat} (h : s.findVoice k = none) : s.retrigger k t = s := by
  simp [State.retrigger, h]

/-- Eviction from a full registry (R195). -/
theorem State.evict_of_full {s : State} {t : Rat} {v : Voice} {rest : List Voice} (h : s.vt = v :: rest)
    (hf : Config.voiceLimit ≤ s.vt.length) :
    s.evict t = { s with vt := rest, tails := s.tails ++ [v.hardStoppedTail s.par t] } := by
  unfold State.evict
  split
  · simp_all
  · rename_i h'
    obtain ⟨rfl, rfl⟩ := List.cons.inj (h'.symm.trans h)
    rw [if_pos hf]
    rfl

/-- No eviction from a registry with room (R180, step 6). -/
theorem State.evict_of_room {s : State} {t : Rat} (h : s.vt.length < Config.voiceLimit) : s.evict t = s := by
  unfold State.evict
  split
  · rfl
  · rw [if_neg (by omega)]

/-! ## Detune (R172) -/

/-- A re-target changes the breakpoints of a voice and nothing else (R172). -/
theorem Voice.retargeted_eq (t cents : Rat) (v : Voice) :
    v.retargeted t cents = { v with bend := (v.retargeted t cents).bend } := by
  unfold Voice.retargeted
  split <;> rfl

/-- A late re-target is dropped (R172, first line). -/
theorem State.retarget_late {s : State} {c : Chan} {t cents : Rat} (h : t < s.clk) : s.retarget c t cents = s := by
  simp [State.retarget, State.late, h]

/-- A re-target on time walks the registry (R172). -/
theorem State.retarget_onTime {s : State} {c : Chan} {t cents : Rat} (h : s.clk ≤ t) :
    s.retarget c t cents =
      { s with vt := s.vt.map fun v => if v.key.ch = c then v.retargeted t cents else v } := by
  simp [State.retarget, State.late, not_lt.mpr h]

/-! ## The waveform cache (R152) -/

/-- Fetching a table adds its key, for the current device, to the cache, and nothing else. -/
theorem State.mem_fetchTable {s : State} {w : BitVec 2} {fb : BitVec 3} {k : WtKey} :
    k ∈ (s.fetchTable w fb).wtc ↔ k ∈ s.wtc ∨ k = { dev := s.dev, shape := w, fb := fb } := by
  unfold State.fetchTable
  dsimp only
  split
  · rename_i h
    exact ⟨.inl, fun h' => h'.elim id fun e => e ▸ h⟩
  · simp

/-- The cache lists no key twice. -/
theorem State.fetchTable_nodup {s : State} {w : BitVec 2} {fb : BitVec 3} (h : s.wtc.Nodup) :
    (s.fetchTable w fb).wtc.Nodup := by
  unfold State.fetchTable
  dsimp only
  split
  · exact h
  · rename_i hk
    exact List.nodup_append.mpr ⟨h, by simp, by
      rintro a ha b hb rfl
      rw [List.mem_singleton] at hb
      exact hk (hb ▸ ha)⟩

/-! ## A step -/

/-- All a step can do: execute the oldest waiting word, or, with none waiting, let the other agents act (R54). -/
theorem step_cases {s s' : State} (h : step s = .next s') :
    (∃ w rest i, s.port = w :: rest ∧ decode w = .ok i ∧ exec i { s with port := rest } = .next s') ∨
      (s.port = [] ∧ s.attend = .next s') := by
  unfold step State.fetch at h
  cases hp : s.port with
  | nil => rw [hp] at h; exact .inr ⟨rfl, h⟩
  | cons w rest =>
    rw [hp] at h
    dsimp only at h
    cases hd : decode w with
    | error r => rw [hd] at h; cases h
    | ok i => rw [hd] at h; exact .inl ⟨w, rest, i, rfl, hd, h⟩

/-- All the other agents can do: deliver the next due input, run the host's pump, or make a sample (R220, R288). -/
theorem attend_cases {s s' : State} (h : s.attend = .next s') :
    (∃ n i rest, s.env = (n, i) :: rest ∧ n ≤ s.clkN ∧ ({ s with env := rest } : State).deliver i = .next s') ∨
      (s.sched.timerDue s.clk = true ∧ s.hostOutcome (s.sched.fire s.par s.clk) = .next s') ∨
      s' = s.sampleTick := by
  have hidle : s.idle = .next s' → (s.sched.timerDue s.clk = true ∧
      s.hostOutcome (s.sched.fire s.par s.clk) = .next s') ∨ s' = s.sampleTick := by
    intro h
    unfold State.idle at h
    split at h
    · rename_i ht
      exact .inl ⟨ht, h⟩
    · cases h
      exact .inr rfl
  unfold State.attend at h
  cases he : s.env with
  | nil => rw [he] at h; exact .inr (hidle h)
  | cons p rest =>
    obtain ⟨n, i⟩ := p
    rw [he] at h
    dsimp only at h
    split at h
    · rename_i hn
      exact .inl ⟨n, i, rest, rfl, hn, h⟩
    · exact .inr (hidle h)

/-- A host operation that answers a next state moves the host and appends its words (R280). -/
theorem hostOutcome_cases {s s' : State} {r : Option (Scheduler × List PortWord)} (h : s.hostOutcome r = .next s') :
    ∃ k ws, r = some (k, ws) ∧ s' = s.issue k ws := by
  cases r with
  | none => cases h
  | some q => cases h; exact ⟨q.1, q.2, rfl, rfl⟩

end Sys2Proof.Machine
end

