-- ==== Sys2Proof/Laws/PerInstr.lean ====
section
/-! SUPPORT. Families of lemmas per instruction. `EncodedOpcode`: the word that spells an instruction is on the port of
its table row, with the opcode of R75. -/

namespace Sys2Proof.Laws.EncodedOpcode

/-- The opcode of a command-port word, none for a patch-port word (R75, R92). -/
def wordOpcode : PortWord → Option (BitVec 4)
  | .command w => some (splitCommand w).op
  | .patch _ => none

/-- The opcode of an instruction's row in the opcode map of R75, none for PATCH_WR. -/
def tableOpcode : Instr → Option (BitVec 4)
  | .noteOff _ _ _ _ => some 0x8#4
  | .noteOn _ _ _ _ => some 0x9#4
  | .ccVolume _ _ _ => some 0xB#4
  | .ccPan _ _ _ => some 0xB#4
  | .ccExpr _ _ _ => some 0xB#4
  | .ccReset _ _ _ => some 0xB#4
  | .ccLoopStart _ _ _ => some 0xB#4
  | .ccLoopEnd _ _ _ => some 0xB#4
  | .ccOther _ _ _ _ => some 0xB#4
  | .progChange _ _ _ _ => some 0xC#4
  | .pitchBend _ _ _ _ => some 0xE#4
  | .allStop _ => some 0x1#4
  | .chReset _ => some 0x2#4
  | .mvol _ _ => some 0x3#4
  | .devAttach _ _ => some 0x4#4
  | .bankClr _ _ _ => some 0x5#4
  | .patchWr _ _ _ _ => none

/-- An instruction is spelled with the opcode of its row. -/
def Statement (i : Instr) : Prop := wordOpcode (encode i) = tableOpcode i

theorem event (t : TimeField) (op : BitVec 4) (ch : Chan) (d1 d2 : BitVec 8) :
    wordOpcode (eventWord t op ch d1 d2) = some op := by
  simp only [eventWord, wordOpcode, split_join]

theorem system (t : TimeField) (op : BitVec 4) (imm16 : BitVec 16) :
    wordOpcode (systemWord t op imm16) = some op := by
  simp only [systemWord, wordOpcode, split_join]

theorem noteOff (ch : Chan) (note d2 : Data7) (t : TimeField) :
    Statement (.noteOff ch note d2 t) := event _ _ _ _ _

theorem noteOn (ch : Chan) (note vel : Data7) (t : TimeField) :
    Statement (.noteOn ch note vel t) := event _ _ _ _ _

theorem ccVolume (ch : Chan) (val : Data7) (t : TimeField) :
    Statement (.ccVolume ch val t) := event _ _ _ _ _

theorem ccPan (ch : Chan) (val : Data7) (t : TimeField) :
    Statement (.ccPan ch val t) := event _ _ _ _ _

theorem ccExpr (ch : Chan) (val : Data7) (t : TimeField) :
    Statement (.ccExpr ch val t) := event _ _ _ _ _

theorem ccReset (ch : Chan) (val : Data7) (t : TimeField) :
    Statement (.ccReset ch val t) := event _ _ _ _ _

theorem ccLoopStart (ch : Chan) (val : Data7) (t : TimeField) :
    Statement (.ccLoopStart ch val t) := event _ _ _ _ _

theorem ccLoopEnd (ch : Chan) (val : Data7) (t : TimeField) :
    Statement (.ccLoopEnd ch val t) := event _ _ _ _ _

theorem ccOther (ch : Chan) (cc val : Data7) (t : TimeField) :
    Statement (.ccOther ch cc val t) := event _ _ _ _ _

theorem progChange (ch : Chan) (prog : Data7) (d2 : BitVec 8) (t : TimeField) :
    Statement (.progChange ch prog d2 t) := event _ _ _ _ _

theorem pitchBend (ch : Chan) (lsb msb : Data7) (t : TimeField) :
    Statement (.pitchBend ch lsb msb t) := event _ _ _ _ _

theorem allStop (t : TimeField) :
    Statement (.allStop t) := system _ _ _

theorem chReset (t : TimeField) :
    Statement (.chReset t) := system _ _ _

theorem mvol (vol16 : BitVec 16) (t : TimeField) :
    Statement (.mvol vol16 t) := system _ _ _

theorem devAttach (handle : BitVec 16) (t : TimeField) :
    Statement (.devAttach handle t) := system _ _ _

theorem bankClr (mel perc : Bool) (t : TimeField) :
    Statement (.bankClr mel perc t) := system _ _ _

theorem patchWr (space : Space) (idx : Data7) (valid : Bool) (patch : Patch) :
    Statement (.patchWr space idx valid patch) := rfl

end Sys2Proof.Laws.EncodedOpcode
end

