-- ==== Sys2Proof/Laws/Terms.lean ====
section
/-! SUPPORT. The value of each form of term over the exact reals (R7, R132). -/

namespace Sys2Proof.Machine

section
variable (F : OpenFunctions)

@[simp] theorem RTerm.value_rat (q : Rat) : (RTerm.rat q).value F = (q : ℝ) := rfl

@[simp] theorem RTerm.value_pi : RTerm.pi.value F = Real.pi := rfl

@[simp] theorem RTerm.value_add (a b : RTerm) : (RTerm.add a b).value F = a.value F + b.value F := rfl

@[simp] theorem RTerm.value_sub (a b : RTerm) : (RTerm.sub a b).value F = a.value F - b.value F := rfl

@[simp] theorem RTerm.value_mul (a b : RTerm) : (RTerm.mul a b).value F = a.value F * b.value F := rfl

@[simp] theorem RTerm.value_div (a b : RTerm) : (RTerm.div a b).value F = a.value F / b.value F := rfl

@[simp] theorem RTerm.value_pow2 (a : RTerm) : (RTerm.pow2 a).value F = (2 : ℝ) ^ a.value F := rfl

@[simp] theorem RTerm.value_pow10 (a : RTerm) : (RTerm.pow10 a).value F = (10 : ℝ) ^ a.value F := rfl

@[simp] theorem RTerm.value_exp (a : RTerm) : (RTerm.exp a).value F = Real.exp (a.value F) := rfl

@[simp] theorem RTerm.value_sin (a : RTerm) : (RTerm.sin a).value F = Real.sin (a.value F) := rfl

@[simp] theorem RTerm.value_neg (a : RTerm) : (RTerm.neg a).value F = -a.value F := rfl

@[simp] theorem RTerm.value_max (a b : RTerm) : (RTerm.max a b).value F = Max.max (a.value F) (b.value F) := by
  change (Numerics.exact F).max (a.value F) (b.value F) = _
  simp [Numerics.max, Numerics.exact, max_def_lt]

@[simp] theorem RTerm.value_envK : RTerm.envK.value F = F.envK := rfl

@[simp] theorem RTerm.value_panL (p : Data7) : (RTerm.panL p).value F = (F.panLaw p).1 := rfl

@[simp] theorem RTerm.value_panR (p : Data7) : (RTerm.panR p).value F = (F.panLaw p).2 := rfl

@[simp] theorem RTerm.value_fmDepth (a b : RTerm) :
    (RTerm.fmDepth a b).value F = F.fmDepth (a.value F) (b.value F) := rfl

/-- The value of a waveform lookup is the lookup at the value of the phase (R151). -/
theorem RTerm.value_wave (n c : Nat) (s : BitVec 2) (fb : BitVec 3) (ph : RTerm) :
    (RTerm.wave n c s fb ph).value F = (Numerics.exact F).wave n c s fb (ph.value F) := rfl

/-- A duration is `coef / 2^(k/24)` (R130). -/
@[simp] theorem Dur.value_term (x : Dur) : x.term.value F = (x.coef : ℝ) / (2 : ℝ) ^ ((x.k : ℝ) / 24) := by
  simp [Dur.term]

/-- A stop time is its base plus its duration. -/
@[simp] theorem Moment.value_term (m : Moment) : m.term.value F = (m.base : ℝ) + m.dur.term.value F := rfl

end

end Sys2Proof.Machine
end

