-- ==== Sys2Proof/Laws/Wave.lean ====
section
/-! SUPPORT. The feedback build of a waveform table (R144, R145), over the exact reals: one sample, one cycle, and what a
cycle hands to the next. -/

namespace Sys2Proof.Machine

section
variable (F : OpenFunctions) (n : Nat) (s : BitVec 2) (fb : BitVec 3)

/-- One sample over the reals (R144). -/
theorem Numerics.exact_fbSample (k : Nat) (y1 y2 : ℝ) :
    (Numerics.exact F).fbSample n s fb k y1 y2 =
      (Numerics.exact F).shape s (Int.fract ((k : ℝ) / n + 1 / 2 ^ (9 - fb.toNat) * ((y1 + y2) / 2))) := by
  simp only [Numerics.fbSample, Numerics.frac, Numerics.exact, betaCycles, Int.fract]
  push_cast
  congr 1
  ring_nf

theorem Numerics.fbCycle_length (ks : List Nat) (y1 y2 : ℝ) :
    ((Numerics.exact F).fbCycle n s fb ks y1 y2).1.length = ks.length := by
  induction ks generalizing y1 y2 with
  | nil => rfl
  | cons k ks ih => simp [Numerics.fbCycle, ih]

/-- From the third sample of a cycle on, a sample is fed the two before it. -/
theorem Numerics.fbCycle_step (ks : List Nat) (y1 y2 : ℝ) (j : Nat) (h : j + 2 < ks.length) :
    ((Numerics.exact F).fbCycle n s fb ks y1 y2).1.getD (j + 2) 0 =
      (Numerics.exact F).fbSample n s fb ks[j + 2] (((Numerics.exact F).fbCycle n s fb ks y1 y2).1.getD (j + 1) 0)
        (((Numerics.exact F).fbCycle n s fb ks y1 y2).1.getD j 0) := by
  induction ks generalizing y1 y2 j with
  | nil => simp at h
  | cons k ks ih =>
    cases j with
    | zero =>
      match ks, h with
      | _ :: _ :: _, _ => simp [Numerics.fbCycle]
    | succ j =>
      simpa [Numerics.fbCycle] using ih ((Numerics.exact F).fbSample n s fb k y1 y2) y1 j (by simp at h; omega)

/-- A cycle hands its two last samples on (R144). -/
theorem Numerics.fbCycle_last (ks : List Nat) (y1 y2 : ℝ) :
    ((Numerics.exact F).fbCycle n s fb ks y1 y2).2 =
      match ((Numerics.exact F).fbCycle n s fb ks y1 y2).1.reverse with
      | [] => (y1, y2)
      | [x] => (x, y1)
      | x :: y :: _ => (x, y) := by
  induction ks generalizing y1 y2 with
  | nil => rfl
  | cons k ks ih =>
    simp only [Numerics.fbCycle]
    rw [ih]
    simp only [List.reverse_cons]
    generalize ((Numerics.exact F).fbCycle n s fb ks _ y1).1.reverse = l
    match l with
    | [] => rfl
    | [_] => rfl
    | _ :: _ :: _ => rfl

/-- The kept cycle is one cycle over all sample numbers, from some history (R145). -/
theorem Numerics.fbKept_eq_fbCycle (c : Nat) (y1 y2 : ℝ) : ∃ z1 z2,
    (Numerics.exact F).fbKept n s fb c y1 y2 = ((Numerics.exact F).fbCycle n s fb (List.range n) z1 z2).1 := by
  induction c generalizing y1 y2 with
  | zero => exact ⟨y1, y2, rfl⟩
  | succ c ih => exact ih _ _

end

end Sys2Proof.Machine
end

