-- ==== Sys2Proof/Machine/Asm.lean ====
section
/-! DEFINITION. The assembler notation of 30_encoding.md R90: one line names a command by its operands, and stands for
one instruction. The text of a line (spaces, decimals, comments) is not modelled; `t` is the play-time field of the
operand `@ T`, and a line without `@ T` carries a field of zeros. -/

namespace Sys2Proof

/-- The lines of R90. -/
inductive AsmLine where
  | noteOn (ch : Chan) (note vel : Data7) (t : TimeField)
  | noteOff (ch : Chan) (note : Data7) (t : TimeField)
  | cc (ch : Chan) (ctl val : Data7) (t : TimeField)
  | prog (ch : Chan) (program : Data7)
  | bend (ch : Chan) (v14 : BitVec 14) (t : TimeField)
  | allStop
  | chReset
  | mvol (vol16 : BitVec 16)
  | devAttach (handle : BitVec 16)
  | bankClr (mel perc : Bool)
  | patchWr (space : Space) (idx : Data7) (valid : Bool) (rec88 : RecordWord)
deriving DecidableEq, Repr

/-- The port word a line stands for (R90, R91): `d2 = 0` for NOTE_OFF and PROG, `d1 = v14[6:0]` and
`d2 = v14[13:7]` for BEND. -/
def AsmLine.assemble : AsmLine → PortWord
  | .noteOn ch note vel t => eventWord t 0x9#4 ch (byteOf note) (byteOf vel)
  | .noteOff ch note t => eventWord t 0x8#4 ch (byteOf note) 0#8
  | .cc ch ctl val t => eventWord t 0xB#4 ch (byteOf ctl) (byteOf val)
  | .prog ch program => eventWord 0#64 0xC#4 ch (byteOf program) 0#8
  | .bend ch v14 t => eventWord t 0xE#4 ch (byteOf (v14.extractLsb' 0 7)) (byteOf (v14.extractLsb' 7 7))
  | .allStop => systemWord 0#64 0x1#4 0#16
  | .chReset => systemWord 0#64 0x2#4 0#16
  | .mvol vol16 => systemWord 0#64 0x3#4 vol16
  | .devAttach handle => systemWord 0#64 0x4#4 handle
  | .bankClr mel perc => systemWord 0#64 0x5#4 (0#14 ++ BitVec.ofBool perc ++ BitVec.ofBool mel)
  | .patchWr space idx valid rec88 => patchWord space idx valid rec88

end Sys2Proof
end

