-- ==== Sys2Proof/Tests/Slice0.lean ====
section
/-! SUPPORT. Tests of the model against the vectors of 95_test_vectors.md, and for every statement with hypotheses a
witness that meets them. -/

namespace Sys2Proof.Tests

-- One theorem after another: elaborated at once, these theorems hold dozens of threads and 22 GB of stacks.
set_option Elab.async false

open Sys2Proof.Machine

/-! ## Helpers -/

/-- The patch PA of 95_test_vectors.md 2.3. -/
def pa : Patch := unpack 0x060026F400210026F41421#88

/-- The patch PB of 95_test_vectors.md 2.3. -/
def pb : Patch := unpack 0x010048F800010148F80802#88

/-- Reset with PA at `PM_MEL[0]` and PB at `PM_PERC[36]` and `PM_PERC[40]`, at `clk = 0.5`. -/
def base : State :=
  { State.reset with
    pmMel := [(0, ⟨true, pa⟩)]
    pmPerc := [(36, ⟨true, pb⟩), (40, ⟨true, pb⟩)]
    clkN := 24000 }

/-- The play-time field of a whole number of halves of a second. -/
def halves (n : Nat) : TimeField := BitVec.ofNat 64 (n * 2 ^ 31)

/-- The voice NOTE_ON makes of PA at velocity 100 with the channel at its reset values (V-N1). -/
def note (n : Data7) (t0 : Rat) : Voice := buildVoice Config.suggested Config.suggested.chReset ⟨0#4, n⟩ 100#7 t0 pa

/-- `base` with the registry voice (0, 60) at `T0 = 1`. -/
def oneVoice : State := { base with vt := [note 60#7 1] }

/-- `base` with nine registry voices, keys (0, 60) to (0, 68). -/
def nineVoices : State := { base with vt := (List.range 9).map fun k => note (BitVec.ofNat 7 (60 + k)) 1 }

/-- The state after a command. -/
def after (i : Instr) (s : State) : State :=
  match exec i s with
  | .next s' => s'
  | .fault _ => s
  | .refused _ => s

/-- Why a command or step is refused. -/
def refusal (o : Host.Outcome State Fault Refusal) : Option Refusal :=
  match o with
  | .next _ => none
  | .fault _ => none
  | .refused r => some r

/-- What the decoder reads from a port word. -/
def read (w : PortWord) : Option Instr :=
  match decode w with
  | .ok i => some i
  | .error _ => none

/-- A song event. -/
def event (time : Rat) (kind : EventKind) (d1 d2 : BitVec 8) : Event := ⟨time, kind, 0#4, d1, d2⟩

/-- A song with a loop-start marker at 2 and a loop-end marker at 8 (T6). -/
def song : List Event :=
  [event 0 .noteOn 60#8 100#8, event 2 .controlChange 110#8 0#8, event 3 .noteOff 60#8 0#8,
   event 8 .controlChange 111#8 0#8, event 9 .noteOn 62#8 100#8]

/-- The host playing `song` in a loop, its anchor at 0. -/
def playing : Scheduler :=
  { ({ Scheduler.reset with seq := song, total := 9 } : Scheduler).scan with
    looping := true, mode := .playing, timer := some 1 }

/-- Some interpretation of the open parameters. -/
noncomputable def open0 : OpenFunctions := ⟨3, fun _ _ => 0, fun _ => (0, 0)⟩

theorem open0_envK : 0 < open0.envK := by norm_num [open0]

/-! ## WellFormed: each check refuses an ill-formed term -/

theorem test_ill_formed_controllers :
    ([7#7, 10#7, 11#7, 121#7, 110#7, 111#7].all fun c => !(Instr.ccOther 0#4 c 0#7 0#64).wellFormed) = true := by decide

theorem test_well_formed_controllers :
    ([0#7, 6#7, 8#7, 9#7, 12#7, 64#7, 109#7, 112#7, 120#7, 122#7, 123#7, 127#7].all fun c =>
      (Instr.ccOther 0#4 c 0#7 0#64).wellFormed) = true := by decide

/-! ## Decode and encode: the words of 95_test_vectors.md 2.1 to 2.3 -/

theorem test_decode_noteOff : read (.command 0x00000000000000008F7F40#88) = some (.noteOff 15#4 127#7 64#7 0#64) ∧
    encode (.noteOff 0#4 60#7 0#7 0x100000000#64) = .command 0x0000000100000000803C00#88 := by decide

theorem test_decode_noteOn : read (.command 0x000000008000000099267F#88) = some (.noteOn 9#4 38#7 127#7 0x80000000#64) ∧
    encode (.noteOn 0#4 60#7 100#7 0x100000000#64) = .command 0x0000000100000000903C64#88 := by decide

theorem test_decode_ccVolume : read (.command 0x0000000000000000B3075A#88) = some (.ccVolume 3#4 90#7 0#64) ∧
    encode (.ccVolume 3#4 90#7 0#64) = .command 0x0000000000000000B3075A#88 := by decide

theorem test_decode_ccPan : read (.command 0x0000000000000000B00A00#88) = some (.ccPan 0#4 0#7 0#64) ∧
    encode (.ccPan 0#4 0#7 0#64) = .command 0x0000000000000000B00A00#88 := by decide

theorem test_decode_ccExpr : read (.command 0x0000000000000000B00B40#88) = some (.ccExpr 0#4 64#7 0#64) ∧
    encode (.ccExpr 0#4 64#7 0#64) = .command 0x0000000000000000B00B40#88 := by decide

theorem test_decode_ccReset : read (.command 0x0000000500000000B27900#88) = some (.ccReset 2#4 0#7 0x500000000#64) ∧
    encode (.ccReset 2#4 0#7 0x500000000#64) = .command 0x0000000500000000B27900#88 := by decide

theorem test_decode_ccLoopStart : read (.command 0x0000000000000000B06E00#88) = some (.ccLoopStart 0#4 0#7 0#64) ∧
    encode (.ccLoopStart 0#4 0#7 0#64) = .command 0x0000000000000000B06E00#88 := by decide

theorem test_decode_ccLoopEnd : read (.command 0x0000000000000000B06F00#88) = some (.ccLoopEnd 0#4 0#7 0#64) ∧
    encode (.ccLoopEnd 0#4 0#7 0#64) = .command 0x0000000000000000B06F00#88 := by decide

theorem test_decode_ccOther : read (.command 0x0000000000000000B0407F#88) = some (.ccOther 0#4 64#7 127#7 0#64) ∧
    encode (.ccOther 0#4 64#7 127#7 0#64) = .command 0x0000000000000000B0407F#88 := by decide

theorem test_decode_progChange : read (.command 0x0000000000000000C45100#88) = some (.progChange 4#4 81#7 0#8 0#64) ∧
    encode (.progChange 4#4 81#7 0xFF#8 0#64) = .command 0x0000000000000000C451FF#88 := by decide

theorem test_decode_pitchBend : read (.command 0x0000000020000000E57F7F#88) =
      some (.pitchBend 5#4 127#7 127#7 0x20000000#64) ∧
    encode (.pitchBend 0#4 0#7 0x60#7 0x200000000#64) = .command 0x0000000200000000E00060#88 := by decide

theorem test_decode_allStop : read (.command 0x0000000000000000100000#88) = some (.allStop 0#64) ∧
    encode (.allStop 0#64) = .command 0x0000000000000000100000#88 := by decide

theorem test_decode_chReset : read (.command 0x0000000000000000200000#88) = some (.chReset 0#64) ∧
    encode (.chReset 0#64) = .command 0x0000000000000000200000#88 := by decide

theorem test_decode_mvol : read (.command 0x000000000000000030FFFF#88) = some (.mvol 0xFFFF#16 0#64) ∧
    encode (.mvol 0x4000#16 0#64) = .command 0x0000000000000000304000#88 := by decide

theorem test_decode_devAttach : read (.command 0x0000000000000000400001#88) = some (.devAttach 1#16 0#64) ∧
    encode (.devAttach 1#16 0#64) = .command 0x0000000000000000400001#88 := by decide

theorem test_decode_bankClr : read (.command 0x0000000000000000500001#88) = some (.bankClr true false 0#64) ∧
    encode (.bankClr false true 0#64) = .command 0x0000000000000000500002#88 := by decide

theorem test_decode_patchWr : read (.patch 0xA480010048F800010148F80802#104) = some (.patchWr .percussion 36#7 true pb) ∧
    encode (.patchWr .melodic 5#7 true pa) = .patch 0x0580060026F400210026F41421#104 ∧
    encode (.patchWr .melodic 5#7 false (unpack 0#88)) = .patch 0x05000000000000000000000000#104 := by decide

/-- V-M2, PE: every field of a record at an extreme. -/
theorem test_decode_patch_extremes : read (.patch 0xFF800F02001F81F003FF00FFDF#104) =
    some (.patchWr .percussion 127#7 true
      { m := ⟨true, true, false, true, 15#4, 3#2, 63#6, 0#4, 0#4, 15#4, 15#4, 3#2⟩
        c := ⟨true, true, true, true, 0#4, 2#2, 1#6, 1#4, 15#4, 0#4, 0#4, 2#2⟩
        fb := 7#3, alg := .additive }) := by decide

/-- V-R1 to V-R14. -/
theorem test_reserved_commands :
    ([0x000000, 0x600000, 0x700000, 0xA03C40, 0xD04000, 0xF00000, 0x908000, 0x903C80, 0xB08000, 0xB00780, 0xC08000,
      0xE08000, 0x100001, 0x210000, 0x310000, 0x410000, 0x500004, 0x510000].all fun w =>
        (decodeTableWord 24 w).isNone) = true := by decide

/-- V-M3: bit 94, B4 = 0x04, B9 = 0x04, B10 = 0x16. -/
theorem test_reserved_patches :
    ([0x00C0060026F400210026F41421, 0x0080060026F400210426F41421, 0x0080060426F400210026F41421,
      0x0080160026F400210026F41421].all fun w => (decodeTableWord 104 w).isNone) = true := by decide

/-- The assembler lines of V-E2, V-E15 and V-M2. -/
theorem test_assemble : (AsmLine.noteOff 0#4 60#7 0x100000000#64).assemble = .command 0x0000000100000000803C00#88 ∧
    (AsmLine.bend 0#4 12288#14 0x200000000#64).assemble = .command 0x0000000200000000E00060#88 ∧
    (AsmLine.patchWr .percussion 40#7 true 0x010048F800030148F80802#88).assemble =
      .patch 0xA880010048F800030148F80802#104 := by decide

theorem test_withFetchWord_runs :
    (match step (State.reset.withFetchWord 24 0x304000) with
      | .next s' => some s'.mvol
      | _ => none) = some (1 / 2) := by decide +kernel

/-- The suggested CH_RESET_VALUES (R5, R27; log 3). -/
theorem test_reset_channels : State.reset.chan 15#4 = ⟨0#7, 100#7, 64#7, 127#7, 0⟩ := by decide +kernel

/-! ## The commands -/

/-- V-N1. -/
theorem test_noteOn_creates : (after (.noteOn 0#4 60#7 100#7 (halves 2)) base).vt = [note 60#7 1] ∧
    (after (.noteOn 0#4 60#7 100#7 (halves 2)) base).wtc = [⟨0#16, 0#2, 3#3⟩, ⟨0#16, 0#2, 0#3⟩] := by decide +kernel

/-- V-N3: a re-trigger at 2.0 hard-stops the prior voice there. -/
theorem test_noteOn_retriggers :
    let s := after (.noteOn 0#4 60#7 100#7 (halves 4)) oneVoice
    s.vt = [note 60#7 2] ∧
      s.tails = [{ note 60#7 1 with hs := some 2, stop := some (Moment.ofRat (2 + 5 / 1000)) }] := by decide +kernel

/-- V-N5: release at 2.0, stop at 3.2775. -/
theorem test_noteOff_releases :
    let s := after (.noteOff 0#4 60#7 0#7 (halves 4)) oneVoice
    s.vt = [] ∧ s.tails = [{ note 60#7 1 with rel := some 2, stop := some ⟨2 + 5 / 100, ⟨12275 / 10000, 0⟩⟩ }] := by
  decide +kernel

/-- V-N5: another note, another channel: nothing. -/
theorem test_noteOff_other_key : after (.noteOff 0#4 61#7 0#7 (halves 4)) oneVoice = oneVoice ∧
    after (.noteOff 1#4 60#7 0#7 (halves 4)) oneVoice = oneVoice := by decide +kernel

/-- V-C1. -/
theorem test_ccVolume : (after (.ccVolume 3#4 90#7 0#64) base).chan 3#4 = ⟨0#7, 90#7, 64#7, 127#7, 0⟩ ∧
    (after (.ccVolume 3#4 90#7 0#64) base).chan 2#4 = ⟨0#7, 100#7, 64#7, 127#7, 0⟩ := by decide +kernel

/-- V-C2. -/
theorem test_ccPan : (after (.ccPan 0#4 127#7 0#64) base).chan 0#4 = ⟨0#7, 100#7, 127#7, 127#7, 0⟩ := by decide +kernel

/-- V-C3. -/
theorem test_ccExpr : (after (.ccExpr 0#4 64#7 0#64) base).chan 0#4 = ⟨0#7, 100#7, 64#7, 64#7, 0⟩ := by decide +kernel

/-- V-C4 and V-C5. -/
theorem test_ccReset : (after (.ccReset 2#4 77#7 (halves 10))
    (base.setChan 2#4 ⟨30#7, 50#7, 0#7, 10#7, 100⟩)).chan 2#4 = ⟨30#7, 100#7, 64#7, 127#7, 0⟩ := by decide +kernel

/-- V-C6. -/
theorem test_ccLoopStart : after (.ccLoopStart 0#4 0#7 0#64) oneVoice = oneVoice := by decide +kernel

/-- V-C6. -/
theorem test_ccLoopEnd : after (.ccLoopEnd 0#4 0#7 0#64) oneVoice = oneVoice := by decide +kernel

/-- V-C6. -/
theorem test_ccOther : after (.ccOther 0#4 123#7 0#7 0#64) oneVoice = oneVoice := by decide +kernel

/-- V-C7. -/
theorem test_progChange : (after (.progChange 4#4 81#7 0#8 0#64) base).chan 4#4 =
    ⟨81#7, 100#7, 64#7, 127#7, 0⟩ := by decide +kernel

/-- V-C9: bends 0, 4096, 8192, 8193, 16383. -/
theorem test_pitchBend_cents :
    ([(0#7, 0#7), (0#7, 32#7), (0#7, 64#7), (1#7, 64#7), (127#7, 127#7)].map fun p =>
      ((after (.pitchBend 0#4 p.1 p.2 (halves 4)) base).chan 0#4).bend) = [-200, -100, 0, 25 / 1024, 204775 / 1024] := by
  decide +kernel

/-- V-C10: steps 1 to 5, from the breakpoints [(1, 0)]. -/
theorem test_pitchBend_retargets :
    let s1 := after (.pitchBend 0#4 0#7 0x60#7 (halves 4)) oneVoice
    let s2 := after (.pitchBend 0#4 0#7 0x20#7 (halves 6)) s1
    let s3 := after (.pitchBend 0#4 0#7 0x40#7 (halves 4)) s2
    let s4 := after (.pitchBend 0#4 0#7 0x60#7 (halves 2)) s3
    (s2.vt.map Voice.bend) = [[(1, 0), (2, 100), (3, -100)]] ∧ (s3.vt.map Voice.bend) = [[(1, 0), (2, 0)]] ∧
      (s4.vt.map Voice.bend) = [[(1, 100)]] ∧
      ((after (.pitchBend 0#4 0#7 0#7 0xC0000000#64) s4).vt.map Voice.bend) = [[(1, -200)]] := by decide +kernel

/-- V-S1. -/
theorem test_allStop :
    let c : Voice := { note 61#7 1 with rel := some 6, stop := some (Moment.ofRat 8) }
    let s := after (.allStop 0#64) { base with vt := [note 60#7 1], tails := [c], clkN := 336000 }
    s.vt = [] ∧ s.tails = [{ c with hs := some 7, stop := some (Moment.ofRat (7 + 5 / 1000)) },
      { note 60#7 1 with hs := some 7, stop := some (Moment.ofRat (7 + 5 / 1000)) }] := by decide +kernel

/-- V-S3. -/
theorem test_chReset : (after (.chReset 0#64) (base.setChan 3#4 ⟨40#7, 20#7, 64#7, 127#7, -200⟩)).chan 3#4 =
    ⟨0#7, 100#7, 64#7, 127#7, 0⟩ := by decide +kernel

/-- V-S4. -/
theorem test_mvol : ([0x0#16, 0x1#16, 0x4000#16, 0x8000#16, 0x8001#16, 0xFFFF#16].map fun v =>
    (after (.mvol v 0#64) base).mvol) = [0, 1 / 32768, 1 / 2, 1, 1, 1] := by decide +kernel

/-- V-W5. -/
theorem test_devAttach :
    let s := after (.devAttach 1#16 0#64) { base with wtc := [⟨0#16, 0#2, 3#3⟩] }
    s.dev = 1#16 ∧ s.wtc = [] := by decide +kernel

/-- R363. -/
theorem test_devAttach_refused : refusal (exec (.devAttach 1#16 0#64) oneVoice) = some .deviceChangeWhileUnfinished := by
  decide +kernel

/-- V-S6. -/
theorem test_bankClr :
    let s := after (.bankClr false true 0#64) base
    (s.pmMel.read 0).valid = true ∧ (s.pmPerc.read 36) = ⟨false, pb⟩ := by decide +kernel

/-- V-P2: a patch write is seen by the next selection. -/
theorem test_patchWr : (after (.patchWr .melodic 5#7 true pa) base).getPatch 5#7 = pa ∧
    refusal (exec (.patchWr .melodic 5#7 true pa) oneVoice) = some .patchWriteWhileUnfinished := by decide +kernel

/-! ## Patch selection, translator, host -/

/-- V-P3 and V-P4. -/
theorem test_nearest_note :
    ([0, 35, 37, 38, 39, 41, 127].map (nearestNote base.pmPerc)) = [36, 36, 36, 36, 40, 40, 40].map some ∧
    ([40, 37, 36, 39, 41].map (nearestNote [(35, ⟨true, pa⟩), (38, ⟨true, pa⟩), (42, ⟨true, pa⟩)])) =
      [38, 38, 35, 38, 42].map some := by decide +kernel

/-- V-T1, V-T2 and V-T6 at both ends and at the corner of U9. -/
theorem test_translator : attackSeconds 0#4 = 10 ∧ attackSeconds 1#4 = 2826 / 1000 ∧
    attackSeconds 8#4 = 22078125 / 10 ^ 9 ∧ decaySeconds 0#4 = 30 ∧ decaySeconds 1#4 = 3928 / 100 ∧
    decaySeconds 15#4 = 23974609375 / 10 ^ 13 ∧ multiplier 0#4 = 1 / 2 ∧ multiplier 11#4 = 11 := by decide +kernel

/-- V-N7: the auto-stop of PB on note 38 at T0 = 0.5, and with KSR on note 60. -/
theorem test_autoStop :
    (buildVoice Config.suggested Config.suggested.chReset ⟨9#4, 38#7⟩ 127#7 (1 / 2) pb).stop =
      some ⟨1 / 2, ⟨6139224853515625 / 10 ^ 16, 0⟩⟩ := by decide +kernel

/-- V-N9, row by row. -/
theorem test_hardStop :
    let v (r h : Option Rat) (s : Option Rat) : Voice :=
      { note 60#7 1 with rel := r, hs := h, stop := s.map Moment.ofRat }
    let stopAt (r h s : Option Rat) (t : Rat) := ((v r h s).hardStopped Config.suggested t).map fun w => (w.hs, w.stop)
    stopAt none none none 3 = some (some 3, some (Moment.ofRat (3005 / 1000))) ∧
    stopAt none (some 3) (some (3005 / 1000)) (3002 / 1000) = some (some 3, some (Moment.ofRat (3005 / 1000))) ∧
    stopAt none (some 3) (some (3005 / 1000)) (2999 / 1000) =
      some (some (2999 / 1000), some (Moment.ofRat (3004 / 1000))) ∧
    stopAt (some 2) none (some (32775 / 10000)) (5 / 2) = some (some (5 / 2), some (Moment.ofRat (2505 / 1000))) ∧
    stopAt (some 2) none (some (32775 / 10000)) (32775 / 10000) = none ∧
    stopAt none none (some (11139225 / 10 ^ 7)) (1112 / 1000) =
      some (some (1112 / 1000), some (Moment.ofRat (11139225 / 10 ^ 7))) := by decide +kernel

/-- V-E29; a play-time below 0 is issued too (log 19). -/
theorem test_play_time_rounds_up : timeFieldOf 0 (151 / 10) = some 0xF1999999A#64 ∧
    timeFieldOf 0 (1 / 10) = some 0x1999999A#64 ∧ timeFieldOf 0 (2 ^ 32) = none ∧
    (timeFieldOf 1 (-1)).isSome = true := by decide +kernel

/-- R22, D18: a voice that ends before a re-trigger's or eviction's T joins the tails as it is (log 11). -/
theorem test_finished_voice_joins_tails :
    let v : Voice := { note 60#7 1 with stop := some (Moment.ofRat 2) }
    (base.hardStopInto v 2).tails = [v] ∧ (base.hardStopInto v 3).tails = [v] := by decide +kernel

/-- R49: the percussion entry of a bank goes to `PM_PERC[tag]`. -/
theorem test_bank_slot : bankSlot .percussion 38#8 = some (.percussion, 38#7) ∧ bankSlot .percussion 128#8 = none ∧
    bankSlot (.melodic 5#7) 200#8 = some (.melodic, 5#7) := by decide

/-- R79: a program-change of a song is issued with any pad byte. -/
theorem test_dispatch_pad_byte :
    dispatchEvent 0 0 (event 0 .programChange 81#8 0xFF#8) = some (.command 0x0000000000000000C051FF#88) := by
  decide +kernel

/-- T6: the loop bounds of a song with markers at 2.0 and 8.0. -/
theorem test_loop_bounds : (playing.loopStart, playing.loopEnd, playing.loopDur) = (2, 8, 6) ∧
    (playing.loopStartIdx, playing.loopEndIdx) = (1, 3) := by decide +kernel

/-- V-A10: ticks 48000 to 48239. -/
theorem test_active :
    let v : Voice := { note 60#7 1 with stop := some (Moment.ofRat (1005 / 1000)) }
    ([47999, 48000, 48239, 48240].map fun n => v.active ((n : Nat) / 48000 : Rat)) = [false, true, true, false] := by
  decide +kernel

/-! ## Witnesses: states and operands that meet the hypotheses of the statements, clause by clause -/

/-- Whether a step or command answers a next state. -/
def completes (o : Host.Outcome State Fault Refusal) : Bool :=
  match o with
  | .next _ => true
  | .fault _ => false
  | .refused _ => false

theorem next_of_completes {o : Host.Outcome State Fault Refusal} (h : completes o = true) : ∃ s', o = .next s' := by
  cases o with
  | next s' => exact ⟨s', rfl⟩
  | fault _ => cases h
  | refused _ => cases h

/-- `base` with one finished tail, its stop time equal to the clock. -/
def finishedTail : State :=
  { base with tails := [{ note 60#7 0 with rel := some (1 / 4), stop := some (Moment.ofRat (1 / 2)) }] }

/-- `nineVoices` with a NOTE_ON of a tenth key waiting. -/
def tenthNote : State := { nineVoices with port := [encode (.noteOn 0#4 69#7 100#7 (halves 4))] }

theorem oneVoice_inv : oneVoice.Inv := by constructor <;> decide +kernel

theorem tenthNote_inv : tenthNote.Inv := by constructor <;> decide +kernel

theorem witness_DecodeEncode : (Instr.ccOther 0#4 6#7 127#7 0#64).wellFormed = true ∧
    (Instr.ccOther 15#4 112#7 0#7 0#64).wellFormed = true ∧
    (Instr.progChange 0#4 127#7 0xFF#8 0#64).wellFormed = true := by decide

theorem witness_EncodeDecode : decode (.command 0x00000000000000009F7F7F#88) = .ok (.noteOn 15#4 127#7 127#7 0#64) ∧
    decode (.patch 0x05000000000000000000000000#104) = .ok (.patchWr .melodic 5#7 false (unpack 0#88)) := ⟨rfl, rfl⟩

theorem witness_ReservedWords :
    ({ base with port := [.command 0x908000#88] } : State).port = .command 0x908000#88 :: [] ∧
    decode (.command 0x908000#88) = .error .dataByte ∧
    (event ((2 ^ 64 - 1) / 2 ^ 32) .noteOn 127#8 127#8).legal ∧
    dispatchEvent 0 0 (event ((2 ^ 64 - 1) / 2 ^ 32) .noteOn 127#8 127#8) =
      some (.command 0xFFFFFFFFFFFFFFFF907F7F#88) ∧
    (event 0 .programChange 7#8 0xFF#8).legal ∧
    dispatchEvent 0 (1 / 10) (event 0 .programChange 7#8 0xFF#8) = some (.command 0x000000001999999AC007FF#88) :=
  ⟨rfl, rfl, by decide, by decide +kernel, by decide, by decide +kernel⟩

theorem witness_PatchRecordLayout :
    let r : RecordWord := 0x0F03FFFFFFFF03FFFFFFFF#88
    (r.extractLsb' 34 6 = 0#6 ∧ r.extractLsb' 74 6 = 0#6 ∧ r.extractLsb' 84 4 = 0#4) ∧
    (0x000000000000000400000000#88 : RecordWord).extractLsb' 34 6 ≠ 0#6 ∧
    (0x0004000000000000000000#88 : RecordWord).extractLsb' 74 6 ≠ 0#6 ∧
    (0x1000000000000000000000#88 : RecordWord).extractLsb' 84 4 ≠ 0#4 ∧
    (0x00000000000000000400000000#104 : PatchWord).extractLsb' 0 88 = 0x0000000000000400000000#88 := by decide

theorem witness_StepRunsDecodedInstr :
    tenthNote.port = encode (.noteOn 0#4 69#7 100#7 (halves 4)) :: [] ∧
    read (encode (.noteOn 0#4 69#7 100#7 (halves 4))) = some (.noteOn 0#4 69#7 100#7 (halves 4)) ∧
    (Instr.noteOn 0#4 69#7 100#7 (halves 4)).wellFormed = true ∧
    (let s : State := { base with env := [(24000, .word (encode (.chReset 0#64)))] };
      s.port = [] ∧ s.env = [(24000, .word (encode (.chReset 0#64)))] ∧ 24000 ≤ s.clkN) := by decide +kernel

theorem witness_CommandsComplete :
    finishedTail.hazard (.bankClr true true 0#64) = false ∧ finishedTail.hazard (.patchWr .melodic 0#7 true pa) = false ∧
    oneVoice.hazard (.devAttach 0#16 0#64) = false ∧ oneVoice.hazard (.devAttach 1#16 0#64) = true ∧
    oneVoice.hazard (.bankClr false false 0#64) = true ∧ oneVoice.hazard (.patchWr .melodic 0#7 true pa) = true := by
  decide +kernel

theorem witness_StepKeepsInv :
    (oneVoice.Inv ∧ ∃ s', step oneVoice = .next s') ∧ (tenthNote.Inv ∧ ∃ s', step tenthNote = .next s') :=
  ⟨⟨oneVoice_inv, next_of_completes (by decide +kernel)⟩, ⟨tenthNote_inv, next_of_completes (by decide +kernel)⟩⟩

theorem witness_ResetInv : Config.suggested.wf := by decide +kernel

theorem witness_ClockAndParameters : (∃ s', exec (.allStop 0#64) oneVoice = .next s') ∧
    (∃ s', step oneVoice = .next s') ∧
    ∃ s', step ({ oneVoice with env := [(24000, .reset)] } : State) = .next s' :=
  ⟨next_of_completes (by decide +kernel), next_of_completes (by decide +kernel), next_of_completes (by decide +kernel)⟩

theorem witness_RetargetDetune :
    let v : Voice := { note 60#7 1 with bend := [(1, 0), (2, 100)] }
    v.bendOk ∧ v.t0 ≤ 1 ∧ (v.t0 < 3 / 2 ∧ (1 : Rat) < 3 / 2) ∧ ¬ v.t0 < 1 := by decide +kernel

theorem witness_ChannelCommandsFrame : channelOf (.ccVolume 0#4 1#7 0#64) = some 0#4 ∧
    channelOf (.ccOther 15#4 64#7 0#7 0#64) = some 15#4 ∧ channelOf (.pitchBend 7#4 0#7 0#7 0#64) = some 7#4 ∧
    (1#4 : Chan) ≠ 0#4 := by decide

/-- The last play-time before `clk = 0.5`, and `clk` itself. -/
theorem witness_LateNotesDropped : playTime 0x7FFFFFFF#64 < base.clk ∧ playTime 0x80000000#64 = base.clk ∧
    (1#7 : Data7) ≠ 0#7 := by decide +kernel

theorem witness_NoteOnAllocates :
    nineVoices.vt.length ≤ 9 ∧ nineVoices.clk ≤ playTime (halves 1) ∧ (1#7 : Data7) ≠ 0#7 ∧
    (let live := nineVoices.vt.filter fun v => !stoppedBy v.stop nineVoices.clk;
      live.find? (fun v => decide (v.key = ⟨0#4, 60#7⟩)) = some (note 60#7 1) ∧
      live.find? (fun v => decide (v.key = ⟨0#4, 69#7⟩)) = none ∧ live.length = 9) ∧
    base.vt.length ≤ 9 ∧ base.clk ≤ playTime (halves 1) ∧ base.vt = [] := by decide +kernel

theorem witness_RetriggerHardStops :
    nineVoices.vt.length ≤ 9 ∧ (nineVoices.vt.map Voice.key).Nodup ∧ note 68#7 1 ∈ nineVoices.vt ∧
    (note 68#7 1).key = ⟨0#4, 68#7⟩ ∧ (note 68#7 1).hs = none ∧
    stoppedBy (note 68#7 1).stop (playTime (halves 1)) = false ∧ nineVoices.clk ≤ playTime (halves 1) ∧
    (127#7 : Data7) ≠ 0#7 := by decide +kernel

theorem witness_FifoEviction :
    let cmds : List (Key × Data7 × TimeField) := (List.range 10).map fun k => (⟨9#4, BitVec.ofNat 7 k⟩, 1#7, halves 1)
    base.vt = [] ∧ (cmds.map Prod.fst).Nodup ∧ ∀ c ∈ cmds, c.2.1 ≠ 0#7 ∧ base.clk ≤ playTime c.2.2 := by decide +kernel

theorem witness_NoteOffReleases : oneVoice.clk ≤ playTime (halves 1) ∧
    (let live := oneVoice.vt.filter fun v => !stoppedBy v.stop oneVoice.clk;
      live.find? (fun v => decide (v.key = ⟨0#4, 60#7⟩)) = some (note 60#7 1) ∧
      live.find? (fun v => decide (v.key = ⟨0#4, 61#7⟩)) = none) := by decide +kernel

theorem witness_HardStopRule :
    (note 60#7 1).hardStopped Config.suggested 3 =
      some { note 60#7 1 with hs := some 3, stop := some (Moment.ofRat (3005 / 1000)) } ∧ (3 : Rat) ≤ 3 ∧
    ({ note 60#7 1 with stop := some (Moment.ofRat 3) } : Voice).hardStopped Config.suggested 3 = none := by
  decide +kernel

theorem witness_MelodicSelection : (base.pmMel.read (0#7 : Data7).toNat).valid = true ∧
    (base.pmMel.read (127#7 : Data7).toNat).valid = false := by decide

theorem witness_PercussionSelection :
    (8#4 : Chan) ≠ base.par.percCh ∧ (9#4 : Chan) = base.par.percCh ∧ (9#4 : Chan) = State.reset.par.percCh ∧
    (∀ k, ¬ (k < 128 ∧ (State.reset.pmPerc.read k).valid = true)) ∧
    (36 < 128 ∧ (base.pmPerc.read 36).valid = true) ∧ ¬ (38 < 128 ∧ (base.pmPerc.read 38).valid = true) := by
  refine ⟨by decide, by decide, by decide, ?_, by decide, by decide⟩
  rintro k ⟨-, h⟩
  cases h

theorem witness_TranslatorCurves : (14#4 : BitVec 4) < 15#4 ∧ (0#4 : BitVec 4) < 1#4 ∧ (61#6 : BitVec 6) < 62#6 ∧
    (62#6 : BitVec 6) < 63#6 ∧ (0#6 : BitVec 6) < 1#6 := by decide

theorem witness_KeyScaling : (0#2 : BitVec 2) = 0#2 ∧ (36#7 : Data7).toNat ≤ 36 ∧ ¬ (37#7 : Data7).toNat ≤ 36 := by
  decide

theorem witness_ShapesBounded : ((0 : ℝ) ≤ 0 ∧ (0 : ℝ) < 1) ∧ ((0 : ℝ) ≤ 1 / 2 ∧ (1 / 2 : ℝ) < 1) ∧ (3#2 : BitVec 2) ≠ 0#2 := by
  refine ⟨by norm_num, by norm_num, by decide⟩

theorem witness_WaveLookup : 0 < 1 ∧ 0 < Config.suggested.wtN := by decide

theorem witness_WaveTables : ((0#3 : BitVec 3) = 0#3 ∧ 7 < 8) ∧ ((7#3 : BitVec 3) ≠ 0#3 ∧ 5 + 2 < 8) ∧
    ((1#3 : BitVec 3) ≠ 0#3 ∧ (0 : Nat) = 0 ∧ 1 < 2) ∧ ((7#3 : BitVec 3) ≠ 0#3 ∧ 1 < 1024) := by decide

theorem witness_EnvelopeValue : 0 < open0.envK ∧ (note 60#7 1).opC.ok ∧ (note 60#7 1).opM.ok ∧ (1 : Rat) ≤ 1 :=
  ⟨open0_envK, by decide +kernel, by decide +kernel, le_rfl⟩

theorem witness_ReleaseRamp :
    let v (r : Option Rat) : Voice := { note 60#7 1 with rel := r }
    0 < open0.envK ∧ (v none).opM.ok ∧ (v none).opC.ok ∧ 1 / 2 < (v none).t0 ∧
    ((v none).t0 ≤ 1 ∧ ∀ tr ∈ (v none).rel, 1 < tr) ∧ ((v (some 2)).t0 ≤ 1 ∧ ∀ tr ∈ (v (some 2)).rel, 1 < tr) ∧
    ((v (some 2)).t0 ≤ 2 ∧ 2 ∈ (v (some 2)).rel ∧ (2 : Rat) ≤ 2) ∧
    ((v (some (1 / 2))).t0 ≤ 1 ∧ 1 / 2 ∈ (v (some (1 / 2))).rel ∧ (1 / 2 : Rat) ≤ 1) := by
  exact ⟨open0_envK, by decide +kernel⟩

theorem witness_HardStopFade :
    let v (h : Option Rat) : Voice := { note 60#7 1 with hs := h }
    0 < Config.suggested.hardStopS ∧ (∀ th ∈ (v none).hs, 3 < th) ∧ (∀ th ∈ (v (some 2)).hs, 1 < th) ∧
    (2 ∈ (v (some 2)).hs ∧ (2 : Rat) ≤ 2) ∧ 2 + Config.suggested.hardStopS ≤ 2005 / 1000 := by decide +kernel

theorem witness_AmplitudeModulation : Config.suggested.amDepth = 6 / 100 := rfl

theorem witness_OperatorFrequency :
    let v : Voice := { note 60#7 1 with bend := [(1, 0), (2, 100)] }
    (v.bend = [] ++ (1, 0) :: [(2, 100)] ∧ (1 : Rat) ≤ 3 / 2 ∧ ∀ a ∈ [((2 : Rat), (100 : Rat))], 3 / 2 < a.1) ∧
    (v.bend = [(1, 0)] ++ (2, 100) :: [] ∧ (2 : Rat) ≤ 2) := by decide +kernel

theorem witness_TickMix : (finishedTail.vt ++ finishedTail.tails).filter (·.active finishedTail.clk) = [] := by
  decide +kernel

theorem witness_TickPhases :
    let s : State := { oneVoice with env := [(24001, .reset)] }
    s.port = [] ∧ (∀ e ∈ s.env.head?, s.clkN < e.1) ∧ s.sched.timerDue s.clk = false ∧ s.Inv ∧
    note 60#7 1 ∈ s.vt ++ s.tails ∧ s.clk < (note 60#7 1).t0 + 1 / s.par.fs := by
  refine ⟨by decide +kernel, by decide +kernel, by decide +kernel, ?_, by decide +kernel, by decide +kernel⟩
  constructor <;> decide +kernel

theorem witness_OutputIndependence :
    let a : Voice := { note 60#7 1 with rel := some 2 }
    let b : Voice := { note 61#7 1 with hs := some 2 }
    let s : State := { oneVoice with tails := [a, b] }
    let s' : State := { (s.setChan 0#4 ⟨1#7, 2#7, 3#7, 4#7, 5⟩) with tails := [b, a], wtc := [⟨0#16, 0#2, 0#3⟩] }
    s'.par = s.par ∧ s'.clkN = s.clkN ∧ s'.mvol = s.mvol ∧ s'.vt = s.vt ∧ s.tails.Perm s'.tails :=
  ⟨rfl, rfl, rfl, rfl, List.Perm.swap _ _ _⟩

theorem witness_VoicePhases : (note 60#7 1).opC.ok := by decide +kernel

theorem witness_AllStopSilences :
    (base.vt = [] ∧ base.tails = []) ∧ oneVoice.Inv ∧
    oneVoice.clk + oneVoice.par.hardStopS ≤ 1 / 2 + 5 / 1000 :=
  ⟨⟨rfl, rfl⟩, oneVoice_inv, by decide +kernel⟩

theorem witness_DeviceAttach : (0#16 : BitVec 16) = oneVoice.dev ∧
    ((1#16 : BitVec 16) ≠ finishedTail.dev ∧
      ∀ v ∈ finishedTail.vt ++ finishedTail.tails, stoppedBy v.stop finishedTail.clk = true) ∧
    ((0xFFFF#16 : BitVec 16) ≠ oneVoice.dev ∧
      ∃ v ∈ oneVoice.vt ++ oneVoice.tails, stoppedBy v.stop oneVoice.clk = false) := by decide +kernel

theorem witness_BankClear :
    (∀ v ∈ finishedTail.vt ++ finishedTail.tails, stoppedBy v.stop finishedTail.clk = true) ∧ finishedTail.pmMel.wf ∧
    finishedTail.pmPerc.wf ∧ (∃ v ∈ oneVoice.vt ++ oneVoice.tails, stoppedBy v.stop oneVoice.clk = false) ∧
    (false = true ∨ true = true) := by decide +kernel

theorem witness_PatchWrite :
    (let w : PatchWord := 0xFF800F02001F81F003FF00FFDF#104;
      w.extractLsb' 88 7 = 0#7 ∧ recordZeros (w.extractLsb' 0 88) = true) ∧
    ((∀ v ∈ finishedTail.vt ++ finishedTail.tails, stoppedBy v.stop finishedTail.clk = true) ∧
      finishedTail.pmMel.wf ∧ finishedTail.pmPerc.wf) ∧
    ((Space.percussion, 127) ≠ (Space.melodic, (127#7 : Data7).toNat) ∧
      (Space.melodic, 126) ≠ (Space.melodic, (127#7 : Data7).toNat)) ∧
    (∃ v ∈ oneVoice.vt ++ oneVoice.tails, stoppedBy v.stop oneVoice.clk = false) := by decide +kernel

/-- V-E29; the least play-time above -1 / 2^32 and the greatest at most that; a byte outside its field's range. -/
theorem witness_DispatchRoundsUp :
    (dispatchEvent 0 (101 / 10) (event 5 .noteOff 62#8 0#8) = some (.command 0x0000000F1999999A803E00#88) ∧
      -1 < ((101 / 10 : Rat) + 5) * 2 ^ 32 ∧ (event 5 .noteOff 62#8 0#8).legal) ∧
    ((dispatchEvent 0 0 (event 0 .programChange 5#8 0xFF#8)).isSome = true ∧ -1 < ((0 : Rat) + 0) * 2 ^ 32 ∧
      (event 0 .programChange 5#8 0xFF#8).legal) ∧
    ((dispatchEvent 1 0 (event (-1 / 2 ^ 32) .noteOn 5#8 1#8)).isSome = true ∧
      ((0 : Rat) + -1 / 2 ^ 32) * 2 ^ 32 ≤ -1 ∧ (0 : Rat) < 1) ∧
    ((dispatchEvent 0 0 (event 0 .noteOn 128#8 0#8)).isSome = true ∧ ¬ (event 0 .noteOn 128#8 0#8).legal) := by
  decide +kernel

theorem witness_LoopScan :
    IsFirst (fun _ e => e.kind = .controlChange ∧ e.d1 = 110#8) playing.seq 1 ∧
    IsFirst (fun k e => 1 < k ∧ e.kind = .controlChange ∧ e.d1 = 111#8 ∧
      ∃ b, playing.seq[1]? = some b ∧ b.time ≤ e.time) playing.seq 3 ∧
    playing.seq[1]? = some (event 2 .controlChange 110#8 0#8) ∧
    playing.seq[3]? = some (event 8 .controlChange 111#8 0#8) ∧
    ¬ ∃ i j, IsFirst (fun _ e => e.kind = .controlChange ∧ e.d1 = 110#8) Scheduler.reset.seq i ∧
      IsFirst (fun k e => i < k ∧ e.kind = .controlChange ∧ e.d1 = 111#8 ∧
        ∃ b, Scheduler.reset.seq[i]? = some b ∧ b.time ≤ e.time) Scheduler.reset.seq j := by
  refine ⟨⟨⟨_, rfl, rfl, rfl⟩, ?_⟩, ⟨⟨_, rfl, by decide, rfl, rfl, _, rfl, by decide +kernel⟩, ?_⟩, rfl, rfl, ?_⟩
  · intro k hk e he hp
    obtain rfl : k = 0 := by omega
    cases he
    cases hp.1
  · intro k hk e he hp
    obtain rfl : k = 2 := by omega
    cases he
    cases hp.2.1
  · rintro ⟨i, -, ⟨⟨e, he, -⟩, -⟩, -⟩
    cases he

theorem witness_PumpPlayTimesAscend : songOk playing.seq ∧ playing.ok 8 ∧
    (playing.tick Config.suggested 8).isSome = true := by decide +kernel

/-- Outside Playing; at the end of a song without loop, just before and past it; in a loop before its boundary, at it
with wraps left and with none; and a state whose timer is due. -/
theorem witness_PumpBoundAndEnd :
    ((Scheduler.reset.tick Config.suggested 0).isSome = true ∧ Scheduler.reset.mode ≠ .playing) ∧
    (let h : Scheduler := { playing with looping := false };
      h.mode = .playing ∧ h.looping = false ∧
      (h.tick Config.suggested 9).map (·.1.mode) = some .playing ∧
      (h.tick Config.suggested (9 + 1 / 10)).map (·.1.mode) = some .stopped) ∧
    (playing.mode = .playing ∧ playing.looping = true ∧
      (playing.tick Config.suggested 0).map (·.1.cursor) = some 2 ∧
      (playing.tick Config.suggested 6).map (·.1.anchor) = some 6 ∧
      (playing.tick { Config.suggested with maxWraps := 0 } 6).map (fun r => (r.1.anchor, r.1.cursor)) = some (0, 3)) ∧
    (let s : State := { base with sched := playing, clkN := 48000 };
      s.port = [] ∧ (∀ e ∈ s.env.head?, s.clkN < e.1) ∧ s.sched.timer = some 1 ∧ 1 ≤ s.clk) := by decide +kernel

theorem witness_PlayStarts : 0 ≤ Config.suggested.leadS ∧ song.getLast? = some (event 9 .noteOn 62#8 100#8) ∧ songOk song ∧
    (Scheduler.reset.play Config.suggested 0 song false).isSome = true ∧
    (playing.play Config.suggested 0 song true).isSome = true := by decide +kernel

theorem witness_PauseResumeStop :
    let h (t : Rat) : Scheduler := { playing with mode := .paused, pausedElapsed := t, timer := none }
    playing.mode ≠ .paused ∧ (h 0).mode = .paused ∧ (∃ e ∈ (h 3).seq, (h 3).pausedElapsed ≤ e.time) ∧
    (∃ e ∈ (h 9).seq, (h 9).pausedElapsed ≤ e.time) ∧ (∀ e ∈ (h 10).seq, e.time < (h 10).pausedElapsed) := by
  decide +kernel

theorem witness_BankLoad :
    let body := Config.bankSignature.toList ++ List.replicate 12 0#8
    (body.take 6 = Config.bankSignature.toList ∧ 18 ≤ body.length ∧
      le32 body 10 + 12 * le16 body 6 ≤ body.length ∧ le32 body 14 + 30 * le16 body 8 ≤ body.length) ∧
    (Config.bankSignature.toList ++ List.replicate 11 0#8).length < 18 ∧
    (let short := Config.bankSignature.toList ++ [1#8, 0#8, 1#8, 0#8] ++ List.replicate 8 0#8;
      short.length < le32 short 14 + 30 * le16 short 8 ∧
      ¬ short.length < le32 short 10 + 12 * le16 short 6) ∧
    (let short := Config.bankSignature.toList ++ [2#8] ++ List.replicate 11 0#8;
      short.length < le32 short 10 + 12 * le16 short 6) ∧
    ([] : List FileByte).take 6 ≠ Config.bankSignature.toList := by
  have h : Config.bankSignature.toList.length = 6 := Config.bankSignature.length_toList
  revert h
  generalize Config.bankSignature.toList = sig
  intro h
  match sig, h with
  | [_, _, _, _, _, _], _ => simp [le32, le16]

end Sys2Proof.Tests
end

section
/-! PROOFS. The exact comparison of durations and stop times is the order of the reals they denote (00_scope.md R7,
41_param_translator.md R129, R130; log 2). Taking 24th powers turns `coef / 2^(k/24)` into the rational
`coef^24 / 2^k`, and keeps the order of numbers that are not negative; two negative durations compare as their
opposites do, the other way round. -/

namespace Sys2Proof.Machine

/-! ## The value of a duration: its sign, its opposite, its 24th power -/

theorem Dur.value_nonneg_iff (F : OpenFunctions) (x : Dur) : 0 ≤ x.term.value F ↔ 0 ≤ x.coef := by
  have hpos : (0 : ℝ) < 2 ^ ((x.k : ℝ) / 24) := by positivity
  rw [Dur.value_term, le_div_iff₀ hpos, zero_mul, Rat.cast_nonneg]

theorem Dur.value_nonpos_iff (F : OpenFunctions) (x : Dur) : x.term.value F ≤ 0 ↔ x.coef ≤ 0 := by
  have hpos : (0 : ℝ) < 2 ^ ((x.k : ℝ) / 24) := by positivity
  rw [Dur.value_term, div_le_iff₀ hpos, zero_mul, Rat.cast_nonpos]

/-- The opposite of a duration. The model has no use for it; its comparison of negative durations is that of their
opposites. -/
def Dur.opposite (x : Dur) : Dur := { coef := -x.coef, k := x.k }

theorem Dur.value_opposite (F : OpenFunctions) (x : Dur) : x.opposite.term.value F = -x.term.value F := by
  simp [Dur.opposite, neg_div]

theorem Dur.value_ofRat (F : OpenFunctions) (q : Rat) : (Dur.ofRat q).term.value F = q := by
  simp [Dur.ofRat]

/-- The 24th power of a duration is rational: it clears the root in `2^(k/24)`. -/
theorem Dur.value_pow_24 (F : OpenFunctions) (x : Dur) :
    x.term.value F ^ 24 = (x.coef : ℝ) ^ 24 / 2 ^ x.k := by
  have hroot : ((2 : ℝ) ^ ((x.k : ℝ) / 24)) ^ 24 = 2 ^ x.k := by
    rw [← Real.rpow_mul_natCast zero_le_two, ← Real.rpow_natCast 2 x.k]
    congr 1
    push_cast
    ring
  rw [Dur.value_term, div_pow, hroot]

/-! ## The order of durations -/

/-- Durations that are not negative compare as their 24th powers, cross-multiplied. -/
theorem Dur.value_le_iff_of_nonneg (F : OpenFunctions) {x y : Dur} (hx : 0 ≤ x.coef) (hy : 0 ≤ y.coef) :
    x.term.value F ≤ y.term.value F ↔ x.coef ^ 24 * 2 ^ y.k ≤ y.coef ^ 24 * 2 ^ x.k := by
  have hx' := (Dur.value_nonneg_iff F x).mpr hx
  have hy' := (Dur.value_nonneg_iff F y).mpr hy
  rw [← pow_le_pow_iff_left₀ hx' hy' (n := 24) (by decide), Dur.value_pow_24, Dur.value_pow_24,
    div_le_div_iff₀ (by positivity) (by positivity)]
  exact_mod_cast Iff.rfl

/-- Durations that are not positive compare as their opposites, the other way round. -/
theorem Dur.value_le_iff_of_nonpos (F : OpenFunctions) {x y : Dur} (hx : x.coef ≤ 0) (hy : y.coef ≤ 0) :
    x.term.value F ≤ y.term.value F ↔ (-y.coef) ^ 24 * 2 ^ x.k ≤ (-x.coef) ^ 24 * 2 ^ y.k := by
  have h := Dur.value_le_iff_of_nonneg F (x := y.opposite) (y := x.opposite)
    (neg_nonneg.mpr hy) (neg_nonneg.mpr hx)
  rwa [Dur.value_opposite, Dur.value_opposite, neg_le_neg_iff] at h

/-- The model's comparison is the order of the reals, by the signs of the two coefficients. -/
theorem Dur.le_iff_value_le (F : OpenFunctions) (x y : Dur) :
    x.le y = true ↔ x.term.value F ≤ y.term.value F := by
  rcases le_or_gt x.coef 0 with hx | hx <;> rcases le_or_gt 0 y.coef with hy | hy
  case inl.inl =>
    have hvalue := ((Dur.value_nonpos_iff F x).mpr hx).trans ((Dur.value_nonneg_iff F y).mpr hy)
    simp only [Dur.le, hx, hy, hvalue, if_true, decide_true, Bool.true_or]
  case inl.inr =>
    rw [Dur.value_le_iff_of_nonpos F hx hy.le]
    simp [Dur.le, hx, hy.not_ge]
  case inr.inl =>
    rw [Dur.value_le_iff_of_nonneg F hx.le hy]
    simp [Dur.le, hx.not_ge, hy]
  case inr.inr =>
    have hxpos : 0 < x.term.value F := lt_of_not_ge (mt (Dur.value_nonpos_iff F x).mp hx.not_ge)
    have hvalue := ((Dur.value_nonpos_iff F y).mpr hy.le).trans_lt hxpos
    simp only [Dur.le, hx.not_ge, hy.not_ge, hvalue.not_ge, if_false, decide_false, Bool.false_and,
      Bool.false_eq_true]

theorem Dur.value_max (F : OpenFunctions) (x y : Dur) :
    (x.max y).term.value F = Max.max (x.term.value F) (y.term.value F) := by
  simp only [Dur.max, max_def, Dur.le_iff_value_le F]
  split <;> rfl

/-! ## Stop times -/

theorem Moment.atOrBefore_iff_value_le (F : OpenFunctions) (m : Moment) (t : Rat) :
    m.atOrBefore t = true ↔ m.term.value F ≤ (t : ℝ) := by
  rw [Moment.atOrBefore, Dur.le_iff_value_le F, Dur.value_ofRat, Moment.value_term, Rat.cast_sub,
    le_sub_iff_add_le']

/-- Settles O30: the order of durations, their maximum and the test of a stop time, each by its own lemma. -/
theorem exactTimeComparison : Obligations.ExactTimeComparison := fun F =>
  ⟨Dur.le_iff_value_le F, Dur.value_max F, Moment.atOrBefore_iff_value_le F⟩

end Sys2Proof.Machine
end

section
/-! PROOFS. What a command can do to the state: a short list of changes that every command is one of, whatever its
operands, and what all of them leave unchanged. From it, who writes the clock and the parameters (R5, R14, R351). -/

namespace Sys2Proof.Machine

/-! ## The changes commands make -/

/-- The changes the commands are made of, each with what the command has checked before it: a late or ignored command
changes nothing, several commands write a channel register, and two of them re-target its voices as well. -/
inductive State.CommandChange (s : State) : State → Prop
  | unchanged : s.CommandChange s
  | channel (c : Chan) (x : Channel) : s.CommandChange (s.setChan c x)
  | retuned (c : Chan) (x : Channel) (t cents : Rat) : s.CommandChange ((s.setChan c x).retarget c t cents)
  | released (k : Key) (t : Rat) : s.CommandChange (s.purge.releaseKey k t)
  | allocated (k : Key) (vel : Data7) (t : Rat) (onTime : s.clk ≤ t) : s.CommandChange (s.allocate k vel t)
  | silenced : s.CommandChange s.purge.silence
  | channelsReset : s.CommandChange { s with ch := Vector.replicate 16 s.par.chReset }
  | volume (vol16 : BitVec 16) : s.CommandChange { s with mvol := masterVolume vol16 }
  | device (handle : BitVec 16) (other : handle ≠ s.dev) (finished : s.holdsUnfinished = false) :
      s.CommandChange { s with dev := handle, wtc := [] }
  | bankCleared (mel perc : Bool) (finished : s.holdsUnfinished = false) : s.CommandChange { s with
      pmMel := if mel then s.pmMel.clearValid else s.pmMel
      pmPerc := if perc then s.pmPerc.clearValid else s.pmPerc }
  | patchWritten (sp : Space) (idx : Data7) (e : PatchEntry) (finished : s.holdsUnfinished = false) :
      s.CommandChange (s.patchWrite sp idx e)

/-- NOTE_OFF is dropped when late, else purges and releases (R181, R192). -/
theorem State.commandChange_noteOff (s : State) (k : Key) (t : Rat) : s.CommandChange (s.noteOff k t) := by
  unfold State.noteOff
  split
  · exact .unchanged
  · exact .released k t

/-- NOTE_ON is dropped when late, is NOTE_OFF at velocity 0, and else allocates (R180 to R182). -/
theorem State.commandChange_noteOn (s : State) (k : Key) (vel : Data7) (t : Rat) :
    s.CommandChange (s.noteOn k vel t) := by
  unfold State.noteOn
  split
  · exact .unchanged
  · rename_i hlate
    split
    · exact s.commandChange_noteOff k t
    · exact .allocated k vel t (by simpa [State.late] using hlate)

/-- Every command that answers a next state makes one of these changes. -/
theorem exec_commandChange {i : Instr} {s s' : State} (h : exec i s = .next s') : s.CommandChange s' := by
  cases i with
  | noteOff ch note d2 t => exact Host.Outcome.next.inj h ▸ s.commandChange_noteOff _ _
  | noteOn ch note vel t => exact Host.Outcome.next.inj h ▸ s.commandChange_noteOn _ vel _
  | ccVolume ch val t => exact Host.Outcome.next.inj h ▸ .channel ch _
  | ccPan ch val t => exact Host.Outcome.next.inj h ▸ .channel ch _
  | ccExpr ch val t => exact Host.Outcome.next.inj h ▸ .channel ch _
  | ccReset ch val t => exact Host.Outcome.next.inj h ▸ .retuned ch _ _ _
  | ccLoopStart ch val t => exact Host.Outcome.next.inj h ▸ .unchanged
  | ccLoopEnd ch val t => exact Host.Outcome.next.inj h ▸ .unchanged
  | ccOther ch cc val t => exact Host.Outcome.next.inj h ▸ .unchanged
  | progChange ch prog d2 t => exact Host.Outcome.next.inj h ▸ .channel ch _
  | pitchBend ch lsb msb t => exact Host.Outcome.next.inj h ▸ .retuned ch _ _ _
  | allStop t => exact Host.Outcome.next.inj h ▸ .silenced
  | chReset t => exact Host.Outcome.next.inj h ▸ .channelsReset
  | mvol vol16 t => exact Host.Outcome.next.inj h ▸ .volume vol16
  | devAttach handle t =>
    replace h : execDevAttach handle s = .next s' := h
    unfold execDevAttach at h
    split at h
    · exact Host.Outcome.next.inj h ▸ .unchanged
    · rename_i hother
      split at h
      · cases h
      · rename_i hfinished
        exact Host.Outcome.next.inj h ▸ .device handle hother (by simpa using hfinished)
  | bankClr mel perc t =>
    replace h : execBankClr mel perc s = .next s' := h
    unfold execBankClr at h
    split at h
    · cases h
    · rename_i hfinished
      exact Host.Outcome.next.inj h ▸ .bankCleared mel perc (by simpa using hfinished)
  | patchWr sp idx valid patch =>
    replace h : execPatchWr sp idx valid patch s = .next s' := h
    unfold execPatchWr at h
    split at h
    · cases h
    · rename_i hfinished
      exact Host.Outcome.next.inj h ▸ .patchWritten sp idx _ (by simpa using hfinished)

/-! ## What they leave unchanged -/

@[simp] theorem State.allocate_par (s : State) (k : Key) (vel : Data7) (t : Rat) :
    (s.allocate k vel t).par = s.par := by
  simp [State.allocate]

@[simp] theorem State.allocate_clkN (s : State) (k : Key) (vel : Data7) (t : Rat) :
    (s.allocate k vel t).clkN = s.clkN := by
  simp [State.allocate]

theorem State.CommandChange.clkN_par {s s' : State} (h : s.CommandChange s') : s'.clkN = s.clkN ∧ s'.par = s.par := by
  cases h <;> simp

/-! ## The host's calls only move the host and issue words -/

/-- What the host answers a call with: its next state and its words, by the operation called (R91, R280). -/
def State.answer (s : State) : HostCall → Option (Scheduler × List PortWord)
  | .play seq loop => s.sched.play s.par s.clk seq loop
  | .pause => some (s.sched.pause s.clk)
  | .resume => s.sched.resume s.par s.clk
  | .stop => some s.sched.stop
  | .setMasterVolume x => some (s.sched, [volumeWord x])
  | .loadBank bytes => some (s.sched, loadBankWords bytes)
  | .tick => s.sched.tick s.par s.clk

theorem State.hostCall_eq_hostOutcome (s : State) (c : HostCall) : s.hostCall c = s.hostOutcome (s.answer c) := by
  cases c <;> rfl

theorem State.hostCall_cases {s s' : State} {c : HostCall} (h : s.hostCall c = .next s') :
    ∃ k ws, s.answer c = some (k, ws) ∧ s' = s.issue k ws :=
  hostOutcome_cases (s.hostCall_eq_hostOutcome c ▸ h)

/-- An input leaves the parameters and the clock as they are, but a reset puts the clock to 0 (R351). -/
theorem State.deliver_par_clkN {s s' : State} {i : Input} (h : s.deliver i = .next s') :
    s'.par = s.par ∧ (s'.clkN = s.clkN ∨ (s'.clkN = 0 ∧ i = .reset)) := by
  cases i with
  | word w => cases h; exact ⟨rfl, .inl rfl⟩
  | call c =>
    obtain ⟨k, ws, -, rfl⟩ := State.hostCall_cases h
    exact ⟨rfl, .inl rfl⟩
  | reset => cases h; exact ⟨rfl, .inr ⟨rfl, rfl⟩⟩

/-- Settles O10: by the changes a command can make and by what each of the other agents does. -/
theorem clockAndParameters : Obligations.ClockAndParameters := by
  refine ⟨fun s => rfl, fun i s s' h => (exec_commandChange h).clkN_par, fun s s' h => ?_⟩
  rcases step_cases h with ⟨w, rest, i, -, -, hexec⟩ | ⟨hport, hattend⟩
  · obtain ⟨hclk, hpar⟩ := (exec_commandChange hexec).clkN_par
    exact ⟨hpar, .inl hclk⟩
  · rcases attend_cases hattend with ⟨n, i, rest, henv, hdue, hdeliver⟩ | ⟨-, hfire⟩ | htick
    · obtain ⟨hpar, hclk | ⟨hclk, rfl⟩⟩ := State.deliver_par_clkN hdeliver
      · exact ⟨hpar, .inl hclk⟩
      · exact ⟨hpar, .inr (.inr ⟨hclk, hport, n, rest, henv, hdue⟩)⟩
    · obtain ⟨k, ws, -, rfl⟩ := hostOutcome_cases hfire
      exact ⟨rfl, .inl rfl⟩
    · exact ⟨htick ▸ rfl, .inr (.inl ⟨htick, htick ▸ rfl, hport⟩)⟩

end Sys2Proof.Machine
end

section
/-! PROOFS. The phase of a voice (10_state.md R23): each test of the model's chain, an exact comparison of durations, is
the comparison of the reals that the rule writes. -/

namespace Sys2Proof.Machine

/-- Durations of one key-scale exponent add as their values do (R130). -/
theorem Dur.value_addSame (F : OpenFunctions) {x y : Dur} (hk : x.k = y.k) :
    (x.addSame y).term.value F = x.term.value F + y.term.value F := by
  simp [Dur.addSame, hk, add_div]

theorem stoppedBy_iff_value_le (F : OpenFunctions) (stop : Option Moment) (t : Rat) :
    stoppedBy stop t = true ↔ ∃ m, stop = some m ∧ m.term.value F ≤ (t : ℝ) := by
  cases stop with
  | none => simp [stoppedBy_none]
  | some m => simp [stoppedBy_some, Moment.atOrBefore_iff_value_le F]

/-- A phase of length `d` that begins at `start` is not over at `t`, by the model's test. -/
theorem Dur.not_le_sub_iff (F : OpenFunctions) (d : Dur) (start t : Rat) :
    (!d.le (Dur.ofRat (t - start))) = true ↔ (t : ℝ) < start + d.term.value F := by
  rw [Bool.not_eq_true', ← Bool.not_eq_true, Dur.le_iff_value_le F, Dur.value_ofRat, not_le, Rat.cast_sub,
    sub_lt_iff_lt_add']

/-- Settles O46: the tests of the model's chain are those of R23, one by one. -/
theorem voicePhases : Obligations.VoicePhases := by
  intro F v t hok
  obtain ⟨-, -, -, hAD, -⟩ := hok
  have hstop := stoppedBy_iff_value_le F v.stop t
  have hleft : (v.rel.any (· ≤ t) || v.hs.any (· ≤ t)) = true ↔
      (∃ r, v.rel = some r ∧ r ≤ t) ∨ ∃ h, v.hs = some h ∧ h ≤ t := by
    simp [Option.any_eq_true]
  have hattack := Dur.not_le_sub_iff F v.opC.attack v.t0 t
  have hdecay := Dur.not_le_sub_iff F (v.opC.attack.addSame v.opC.decay) v.t0 t
  rw [Dur.value_addSame F hAD, ← add_assoc] at hdecay
  simp only [← hstop, ← hleft, ← hattack, ← hdecay]
  unfold Voice.phase
  split_ifs <;> rfl

end Sys2Proof.Machine
end

section
/-! PROOFS. The state after reset (10_state.md R27; 70_reset_and_hazards.md R350, R351): the values of the table, and
the invariant. -/

namespace Sys2Proof.Machine

/-! ## The table of R27 -/

/-- Every channel holds the reset record (R27). -/
theorem State.chan_resetWith (p : Params) (c : Chan) : (State.resetWith p).chan c = p.chReset := by
  simp [State.chan, State.resetWith]

/-- Every entry of both patch memories is invalid (R27). -/
theorem State.patches_resetWith_invalid (p : Params) (sp : Space) (i : Nat) :
    (((State.resetWith p).patches sp).read i).valid = false := by
  cases sp <;> rfl

/-- Settles O11: field by field, and whatever the outside world will still do, which is all that a reset as an event
leaves beside the parameters. -/
theorem resetState : Obligations.ResetState := by
  unfold Obligations.ResetState
  intro atReset
  have hreset : ∀ p env, atReset { State.resetWith p with env := env } := fun p env =>
    ⟨rfl, rfl, rfl, State.chan_resetWith p, State.patches_resetWith_invalid p, rfl, rfl, rfl,
      fun F => by simp [State.resetWith], rfl⟩
  exact ⟨fun p => ⟨rfl, hreset p []⟩, hreset Config.suggested [], fun s => ⟨s.resetEvent, rfl, rfl, hreset s.par s.env⟩⟩

/-! ## The invariant at reset -/

/-- The host at reset: an empty song, Stopped, without a timer (log 18). -/
theorem Scheduler.reset_ok (clk : Rat) : Scheduler.reset.ok clk := by
  refine ⟨le_refl 0, le_refl 0, le_refl 0, by simp [Scheduler.reset], rfl, fun _ => ⟨le_refl 0, le_refl 0, ?_, ?_⟩⟩ <;>
    simp [Scheduler.reset]

/-- The suggested values of R5 are in their ranges (log 3). -/
theorem Config.suggested_wf : Config.suggested.wf := by
  norm_num [Params.wf, Config.suggested]

theorem State.resetWith_inv {p : Params} (h : p.wf) : (State.resetWith p).Inv where
  par := h
  voiceLimit := Nat.zero_le _
  keys := List.nodup_nil
  live := fun _ hv => absurd hv List.not_mem_nil
  leaving := fun _ hv => absurd hv List.not_mem_nil
  voices := fun _ hv => absurd hv List.not_mem_nil
  melodic := Memory.wf_nil
  percussion := Memory.wf_nil
  volume := by simp [State.resetWith]
  cache := ⟨List.nodup_nil, fun _ hk => absurd hk List.not_mem_nil⟩
  host := Scheduler.reset_ok _

/-- Settles O9: the tables are empty, and the host's part is `Scheduler.reset_ok`. -/
theorem resetInv : Obligations.ResetInv :=
  ⟨State.resetWith_inv Config.suggested_wf, fun _ => State.resetWith_inv⟩

end Sys2Proof.Machine
end

section
/-! PROOFS. The invariant under the operations on the voice tables (10_state.md R19 to R22): first what each operation
does to one voice, then the tables, by the three ways in which they change: voices leave the registry or the tails, the
registry's voices are changed in place, a new voice joins. -/

namespace Sys2Proof.Machine

/-! ## One voice: hard-stop and release (R186, R193) -/

theorem stoppedBy_isSome {stop : Option Moment} {t : Rat} (h : stoppedBy stop t = true) : stop.isSome := by
  cases stop with
  | none => cases h
  | some m => rfl

/-- A hard-stopped voice ends with its fade at the latest (R186). -/
theorem Voice.fadeStop_atOrBefore (p : Params) (v : Voice) (t : Rat) :
    (v.fadeStop p t).atOrBefore (v.fadeStart t + p.hardStopS) = true := by
  rcases v.fadeStop_cases p t with ⟨hstop, -⟩ | ⟨-, hbefore⟩
  · rw [hstop, Moment.atOrBefore_ofRat, decide_eq_true (le_refl _)]
  · exact hbefore

/-- A voice that was not hard-stopped, or ends with its fade, can join the tails once hard-stopped (R22, R186). -/
theorem Voice.hardStoppedTail_leaving {p : Params} {v : Voice} (t : Rat)
    (hfade : ∀ h ∈ v.hs, stoppedBy v.stop (h + p.hardStopS) = true) : (v.hardStoppedTail p t).leaving p := by
  rw [Voice.hardStoppedTail_eq]
  split
  · rename_i hstopped
    exact ⟨stoppedBy_isSome hstopped, hfade⟩
  · refine ⟨rfl, fun h hmem => ?_⟩
    obtain rfl : v.fadeStart t = h := Option.some.inj hmem
    exact v.fadeStop_atOrBefore p t

theorem Voice.hardStoppedTail_ok {p : Params} {clk : Rat} {v : Voice} (t : Rat) (hok : v.ok p clk) :
    (v.hardStoppedTail p t).ok p clk := by
  rw [Voice.hardStoppedTail_eq]
  split <;> exact hok

theorem Voice.live.fade {v : Voice} (hlive : v.live) (p : Params) :
    ∀ h ∈ v.hs, stoppedBy v.stop (h + p.hardStopS) = true := by
  obtain ⟨-, hhs, -⟩ := hlive
  simp [hhs]

theorem Voice.released_leaving {v : Voice} (hlive : v.live) (p : Params) (t : Rat) : (v.released p t).leaving p := by
  obtain ⟨-, hhs, -⟩ := hlive
  exact ⟨rfl, by simp [Voice.released, hhs]⟩

theorem Voice.released_ok {p : Params} {clk : Rat} {v : Voice} (t : Rat) (hok : v.ok p clk) :
    (v.released p t).ok p clk := hok

/-! ## One voice: re-target and sample tick (R172, R226) -/

/-- A re-target keeps the breakpoints ascending from `T0` on: only earlier ones stay before the new one (R172). -/
theorem Voice.retargeted_bendOk {v : Voice} (t cents : Rat) (hok : v.bendOk) : (v.retargeted t cents).bendOk := by
  obtain ⟨hhead, hasc⟩ := hok
  unfold Voice.retargeted
  split
  · exact ⟨rfl, by simp⟩
  · rename_i ht
    obtain ⟨first, rest, hbend⟩ : ∃ first rest, v.bend = first :: rest :=
      List.exists_cons_of_ne_nil (by rintro hnil; simp [hnil] at hhead)
    have hfirst : first.1 = v.t0 := by simpa [hbend] using hhead
    constructor
    · simp [hbend, hfirst, not_le.mp ht]
    · rw [List.map_append, List.pairwise_append]
      exact ⟨hasc.sublist (List.filter_sublist.map _), by simp, by simp⟩

theorem Voice.retargeted_ok {p : Params} {clk : Rat} {v : Voice} (t cents : Rat) (hok : v.ok p clk) :
    (v.retargeted t cents).ok p clk := by
  obtain ⟨hbend, hrest⟩ := hok
  have hbend' := Voice.retargeted_bendOk t cents hbend
  rw [Voice.retargeted_eq] at hbend' ⊢
  exact ⟨hbend', hrest⟩

/-- A registry voice after a re-target of channel `c`: the channel's voices take it, the others stay (R172). -/
def Voice.retargetedOn (c : Chan) (t cents : Rat) (v : Voice) : Voice :=
  if v.key.ch = c then v.retargeted t cents else v

theorem State.retarget_eq_map {s : State} {c : Chan} {t cents : Rat} (honTime : s.clk ≤ t) :
    s.retarget c t cents = { s with vt := s.vt.map (·.retargetedOn c t cents) } :=
  State.retarget_onTime honTime

/-- A re-target changes the breakpoints of a voice and nothing else (R172, R173). -/
theorem Voice.retargetedOn_eq (c : Chan) (t cents : Rat) (v : Voice) :
    v.retargetedOn c t cents = { v with bend := (v.retargetedOn c t cents).bend } := by
  unfold Voice.retargetedOn
  split
  · exact v.retargeted_eq t cents
  · rfl

theorem Voice.retargetedOn_ok {p : Params} {clk : Rat} {v : Voice} (c : Chan) (t cents : Rat) (hok : v.ok p clk) :
    (v.retargetedOn c t cents).ok p clk := by
  unfold Voice.retargetedOn
  split
  · exact Voice.retargeted_ok t cents hok
  · exact hok

/-- Voices changed in place hold the keys they held. -/
theorem Voice.map_key_map {f : Voice → Voice} (hf : ∀ v, (f v).key = v.key) (vs : List Voice) :
    (vs.map f).map Voice.key = vs.map Voice.key := by
  simp [hf]

/-- A tick changes the phases of a voice and nothing else (R226). -/
theorem Voice.ticked_eq (p : Params) (t : Rat) (v : Voice) :
    v.ticked p t = { v with phM := (v.ticked p t).phM, phC := (v.ticked p t).phC } := by
  unfold Voice.ticked
  split <;> rfl

/-- A voice is not advanced before its start (R221, R226). -/
theorem Voice.ticked_of_lt {p : Params} {t : Rat} {v : Voice} (h : t < v.t0) : v.ticked p t = v := by
  simp [Voice.ticked, Voice.active, not_le.mpr h]

/-- The first tick that can advance a voice is the one at or after `T0`, so up to the next the phases are zero. -/
theorem Voice.ticked_ok {p : Params} {clk : Rat} {v : Voice} (hfs : 0 < p.fs) (hok : v.ok p clk) :
    (v.ticked p clk).ok p (clk + 1 / p.fs) := by
  obtain ⟨hbend, hM, hC, hfb, hphase⟩ := hok
  by_cases hstart : clk < v.t0
  · rw [Voice.ticked_of_lt hstart]
    have : 0 < 1 / p.fs := one_div_pos.mpr hfs
    exact ⟨hbend, hM, hC, hfb, fun _ => hphase (by linarith)⟩
  · rw [Voice.ticked_eq]
    exact ⟨hbend, hM, hC, hfb, fun hlt => absurd (lt_of_add_lt_add_right hlt) hstart⟩

/-! ## One voice: the voice NOTE_ON builds (R185 to R191) -/

theorem attackSeconds_pos (rate : BitVec 4) : 0 < attackSeconds rate := by
  unfold attackSeconds
  split <;> positivity

theorem decaySeconds_pos (rate : BitVec 4) : 0 < decaySeconds rate := by
  unfold decaySeconds
  split <;> positivity

theorem buildOp_ok (p : Params) (o : Operator) (fb : BitVec 3) (note : Data7) (factor : RTerm) :
    (buildOp p o fb note factor).ok :=
  ⟨attackSeconds_pos o.ar, decaySeconds_pos o.dr, decaySeconds_pos o.rr, rfl, rfl⟩

theorem buildVoice_live (p : Params) (c : Channel) (k : Key) (vel : Data7) (t : Rat) (patch : Patch) :
    (buildVoice p c k vel t patch).live := ⟨rfl, rfl, rfl⟩

theorem buildVoice_ok (p : Params) (clk : Rat) (c : Channel) (k : Key) (vel : Data7) (t : Rat) (patch : Patch) :
    (buildVoice p c k vel t patch).ok p clk :=
  ⟨⟨rfl, List.pairwise_singleton _ _⟩, buildOp_ok .., buildOp_ok .., rfl, fun _ => ⟨rfl, rfl⟩⟩

/-! ## Voices leave the registry or the tails (R183, R193 to R195, R261) -/

section
variable {s : State}

theorem State.Inv.vt_ok (h : s.Inv) {v : Voice} (hv : v ∈ s.vt) : v.ok s.par s.clk :=
  h.voices v (List.mem_append_left _ hv)

theorem State.Inv.tails_ok (h : s.Inv) {v : Voice} (hv : v ∈ s.tails) : v.ok s.par s.clk :=
  h.voices v (List.mem_append_right _ hv)

/-- A registry that only loses voices is as good as before, beside any good tails. -/
theorem State.Inv.of_sublist (h : s.Inv) {vt tails : List Voice} (hvt : vt.Sublist s.vt)
    (htails : ∀ v ∈ tails, v.leaving s.par ∧ v.ok s.par s.clk) : ({ s with vt := vt, tails := tails } : State).Inv :=
  { h with
    voiceLimit := hvt.length_le.trans h.voiceLimit
    keys := h.keys.sublist (hvt.map _)
    live := fun v hv => h.live v (hvt.subset hv)
    leaving := fun v hv => (htails v hv).1
    voices := fun v hv => (List.mem_append.mp hv).elim (fun hv => h.vt_ok (hvt.subset hv)) fun hv => (htails v hv).2 }

/-- The registry loses voices and one voice joins the tails. -/
theorem State.Inv.of_sublist_of_tail (h : s.Inv) {vt : List Voice} {w : Voice} (hvt : vt.Sublist s.vt)
    (hleaving : w.leaving s.par) (hok : w.ok s.par s.clk) :
    ({ s with vt := vt, tails := s.tails ++ [w] } : State).Inv := by
  refine h.of_sublist hvt fun v hv => ?_
  rcases List.mem_append.mp hv with hv | hv
  · exact ⟨h.leaving v hv, h.tails_ok hv⟩
  · rw [List.mem_singleton.mp hv]
    exact ⟨hleaving, hok⟩

theorem State.Inv.purge (h : s.Inv) : s.purge.Inv :=
  h.of_sublist List.filter_sublist fun v hv =>
    have hmem := List.mem_of_mem_filter hv
    ⟨h.leaving v hmem, h.tails_ok hmem⟩

theorem State.Inv.releaseKey (h : s.Inv) (k : Key) (t : Rat) : (s.releaseKey k t).Inv := by
  cases hfind : s.findVoice k with
  | none => rwa [State.releaseKey_of_none hfind]
  | some v =>
    obtain ⟨hmem, -⟩ := State.findVoice_some hfind
    rw [State.releaseKey_of_some hfind]
    exact h.of_sublist_of_tail List.eraseP_sublist (Voice.released_leaving (h.live v hmem) s.par t)
      (Voice.released_ok t (h.vt_ok hmem))

/-- A registry voice that is taken out and hard-stopped (R194, R195). -/
theorem State.Inv.of_sublist_of_hardStop (h : s.Inv) {vt : List Voice} {v : Voice} (hvt : vt.Sublist s.vt)
    (hv : v ∈ s.vt) (t : Rat) : ({ s with vt := vt, tails := s.tails ++ [v.hardStoppedTail s.par t] } : State).Inv :=
  h.of_sublist_of_tail hvt (Voice.hardStoppedTail_leaving t ((h.live v hv).fade s.par))
    (Voice.hardStoppedTail_ok t (h.vt_ok hv))

theorem State.Inv.retrigger (h : s.Inv) (k : Key) (t : Rat) : (s.retrigger k t).Inv := by
  cases hfind : s.findVoice k with
  | none => rwa [State.retrigger_of_none hfind]
  | some v =>
    rw [State.retrigger_of_some hfind]
    exact h.of_sublist_of_hardStop List.eraseP_sublist (State.findVoice_some hfind).1 t

/-- All an eviction can do: nothing with room in the registry, else the first voice is hard-stopped (R195). -/
theorem State.evict_cases (s : State) (t : Rat) :
    (s.vt.length < Config.voiceLimit ∧ s.evict t = s) ∨
      ∃ v rest, s.vt = v :: rest ∧
        s.evict t = { s with vt := rest, tails := s.tails ++ [v.hardStoppedTail s.par t] } := by
  rcases Nat.lt_or_ge s.vt.length Config.voiceLimit with hroom | hfull
  · exact .inl ⟨hroom, State.evict_of_room hroom⟩
  · obtain ⟨v, rest, hvt⟩ := List.exists_cons_of_length_pos (Nat.lt_of_lt_of_le (by decide) hfull)
    exact .inr ⟨v, rest, hvt, State.evict_of_full hvt hfull⟩

theorem State.Inv.evict (h : s.Inv) (t : Rat) : (s.evict t).Inv := by
  rcases s.evict_cases t with ⟨-, heq⟩ | ⟨v, rest, hvt, heq⟩
  · rwa [heq]
  · rw [heq]
    exact h.of_sublist_of_hardStop (hvt ▸ List.sublist_cons_self v rest) (hvt ▸ List.mem_cons_self) t

theorem State.Inv.silence (h : s.Inv) : s.silence.Inv := by
  refine h.of_sublist (List.nil_sublist _) fun w hw => ?_
  obtain ⟨v, hv, rfl⟩ := List.mem_map.mp hw
  rcases List.mem_append.mp hv with hv | hv
  · exact ⟨Voice.hardStoppedTail_leaving _ (h.leaving v hv).2, Voice.hardStoppedTail_ok _ (h.tails_ok hv)⟩
  · exact ⟨Voice.hardStoppedTail_leaving _ ((h.live v hv).fade s.par), Voice.hardStoppedTail_ok _ (h.vt_ok hv)⟩

/-! ## The registry's voices change in place (R172) -/

theorem State.Inv.retarget (h : s.Inv) (c : Chan) (t cents : Rat) : (s.retarget c t cents).Inv := by
  rcases lt_or_ge t s.clk with hlate | honTime
  · rwa [State.retarget_late hlate]
  · rw [State.retarget_eq_map honTime]
    refine { h with
      voiceLimit := (List.length_map _).trans_le h.voiceLimit
      keys := ?_
      live := ?_
      voices := ?_ }
    · rw [Voice.map_key_map fun v => by rw [Voice.retargetedOn_eq]]
      exact h.keys
    · intro w hw
      obtain ⟨v, hv, rfl⟩ := List.mem_map.mp hw
      rw [Voice.retargetedOn_eq]
      exact h.live v hv
    · intro w hw
      rcases List.mem_append.mp hw with hw | hw
      · obtain ⟨v, hv, rfl⟩ := List.mem_map.mp hw
        exact Voice.retargetedOn_ok c t cents (h.vt_ok hv)
      · exact h.tails_ok hw

/-! ## A new voice joins (R180, R184, R196) -/

/-- A voice of a new key joins a registry with room. -/
theorem State.Inv.addVoice (h : s.Inv) {w : Voice} (hroom : s.vt.length < Config.voiceLimit)
    (hkey : ∀ v ∈ s.vt, v.key ≠ w.key) (hlive : w.live) (hok : w.ok s.par s.clk) :
    ({ s with vt := s.vt ++ [w] } : State).Inv := by
  refine { h with
    voiceLimit := by simpa using hroom
    keys := ?_
    live := ?_
    voices := ?_ }
  · rw [List.map_append, List.nodup_append]
    refine ⟨h.keys, List.nodup_singleton _, fun a ha b hb => ?_⟩
    obtain ⟨v, hv, rfl⟩ := List.mem_map.mp ha
    rw [List.mem_singleton.mp hb]
    exact hkey v hv
  · intro v hv
    rcases List.mem_append.mp hv with hv | hv
    · exact h.live v hv
    · exact List.mem_singleton.mp hv ▸ hlive
  · intro v hv
    rcases List.mem_append.mp hv with hv | hv
    · rcases List.mem_append.mp hv with hv | hv
      · exact h.vt_ok hv
      · exact List.mem_singleton.mp hv ▸ hok
    · exact h.tails_ok hv

/-- After a re-trigger no registry voice has the key (R194). -/
theorem State.Inv.retrigger_key_ne (h : s.Inv) (k : Key) (t : Rat) : ∀ v ∈ (s.retrigger k t).vt, v.key ≠ k := by
  cases hfind : s.findVoice k with
  | none => rw [State.retrigger_of_none hfind]; exact State.findVoice_none.mp hfind
  | some w =>
    rw [State.retrigger_of_some hfind]
    rintro v hv rfl
    have hmap : (s.vt.map Voice.key).erase v.key = (s.vt.eraseP fun u => u.key = v.key).map Voice.key := by
      rw [List.erase_eq_eraseP', List.eraseP_map]
      rfl
    exact h.keys.not_mem_erase (hmap ▸ List.mem_map_of_mem hv)

theorem State.evict_vt_sublist (s : State) (t : Rat) : (s.evict t).vt.Sublist s.vt := by
  rcases s.evict_cases t with ⟨-, heq⟩ | ⟨v, rest, hvt, heq⟩
  · rw [heq]
  · rw [heq, hvt]
    exact List.sublist_cons_self v rest

/-- Eviction leaves room for one voice (R195). -/
theorem State.Inv.evict_length_lt (h : s.Inv) (t : Rat) : (s.evict t).vt.length < Config.voiceLimit := by
  rcases s.evict_cases t with ⟨hroom, heq⟩ | ⟨v, rest, hvt, heq⟩
  · rwa [heq]
  · have hlimit := h.voiceLimit
    rw [hvt, List.length_cons] at hlimit
    rw [heq]
    exact hlimit

theorem State.fetchTable_eq (s : State) (w : BitVec 2) (fb : BitVec 3) :
    s.fetchTable w fb = { s with wtc := (s.fetchTable w fb).wtc } := by
  unfold State.fetchTable
  dsimp only
  split <;> rfl

theorem State.Inv.fetchTable (h : s.Inv) (w : BitVec 2) (fb : BitVec 3) : (s.fetchTable w fb).Inv := by
  have hdev : ∀ k ∈ (s.fetchTable w fb).wtc, k.dev = s.dev := fun k hk => by
    rcases State.mem_fetchTable.mp hk with hk | rfl
    · exact h.cache.2 k hk
    · rfl
  rw [State.fetchTable_eq]
  exact { h with cache := ⟨State.fetchTable_nodup h.cache.1, hdev⟩ }

/-- NOTE_ON on time: every earlier step of R180 keeps the invariant, and makes the room and the free key that the new
voice needs. -/
theorem State.Inv.allocate (h : s.Inv) (k : Key) (vel : Data7) (t : Rat) : (s.allocate k vel t).Inv := by
  have hretriggered := h.purge.retrigger k t
  have hkey := h.purge.retrigger_key_ne k t
  refine State.Inv.addVoice (((hretriggered.evict t).fetchTable _ _).fetchTable _ _) ?_ (fun v hv => ?_)
    (buildVoice_live ..) ?_
  · simpa using hretriggered.evict_length_lt t
  · refine hkey v ((State.evict_vt_sublist _ t).subset ?_)
    simpa using hv
  · simpa using buildVoice_ok ..

end

end Sys2Proof.Machine
end

section
/-! PROOFS. The host's part of the invariant (47_host_scheduler.md R281 to R301), and the invariant under every step. A
host operation either moves the playback of the song it has, or starts another song; the loop fields are a function of
the song, so only a start has to look at the loop scan. -/

namespace Sys2Proof.Machine

/-! ## The loop scan (R285, R286) -/

/-- The loop fields depend on the song alone. -/
theorem Scheduler.scan_congr {a b : Scheduler} (hseq : b.seq = a.seq) (htotal : b.total = a.total) :
    b.scan = { b with loopStartIdx := a.scan.loopStartIdx, loopEndIdx := a.scan.loopEndIdx,
                      loopStart := a.scan.loopStart, loopEnd := a.scan.loopEnd, loopDur := a.scan.loopDur } := by
  unfold Scheduler.scan
  dsimp only
  rw [hseq, htotal]
  split
  · rfl
  · split <;> rfl

/-- All a scan can find: no loop between markers, so the whole song, or two markers in order, the second not before the
first in time. -/
theorem Scheduler.scan_cases (h : Scheduler) :
    (h.scan.loopStartIdx = 0 ∧ h.scan.loopEndIdx = h.seq.length ∧ h.scan.loopDur = h.total) ∨
      (h.scan.loopStartIdx ≤ h.scan.loopEndIdx ∧ h.scan.loopEndIdx ≤ h.seq.length ∧ 0 ≤ h.scan.loopDur) := by
  unfold Scheduler.scan
  dsimp only
  split
  · exact .inl ⟨rfl, rfl, rfl⟩
  · rename_i i hi
    split
    · exact .inl ⟨rfl, rfl, rfl⟩
    · rename_i j hj
      obtain ⟨k, hk, rfl⟩ := Option.map_eq_some_iff.mp hj
      obtain ⟨hlt, hmarker, -⟩ := List.findIdx?_eq_some_iff_getElem.mp hk
      rw [List.length_drop] at hlt
      rw [List.getElem_drop] at hmarker
      refine .inr ⟨?_, ?_, ?_⟩
      · dsimp only
        omega
      · dsimp only
        omega
      · have hj' : k + (i + 1) < h.seq.length := by omega
        have hstart := (Bool.and_eq_true_iff.mp hmarker).2
        simp only [decide_eq_true_eq, Nat.add_comm (i + 1)] at hstart
        have htime : timeAt h.seq (k + (i + 1)) = h.seq[k + (i + 1)].time := by simp [timeAt, hj']
        rw [htime]
        exact sub_nonneg.mpr hstart

theorem Scheduler.scan_loopStartIdx_le (h : Scheduler) : h.scan.loopStartIdx ≤ h.scan.loopEndIdx := by
  rcases h.scan_cases with ⟨hstart, -, -⟩ | ⟨hle, -, -⟩
  · exact hstart ▸ Nat.zero_le _
  · exact hle

theorem Scheduler.scan_loopEndIdx_le (h : Scheduler) : h.scan.loopEndIdx ≤ h.seq.length := by
  rcases h.scan_cases with ⟨-, hend, -⟩ | ⟨-, hle, -⟩
  · exact hend.le
  · exact hle

theorem Scheduler.scan_loopDur_nonneg {h : Scheduler} (htotal : 0 ≤ h.total) : 0 ≤ h.scan.loopDur := by
  rcases h.scan_cases with ⟨-, -, hdur⟩ | ⟨-, -, hle⟩
  · exact hdur ▸ htotal
  · exact hle

/-! ## What a good host gives -/

section
variable {clk : Rat} {p : Params} {h k : Scheduler} {ws : List PortWord}

theorem Scheduler.ok.cursor_le (hok : h.ok clk) : h.cursor ≤ h.seq.length := hok.1

theorem Scheduler.ok.loopStartIdx_le (hok : h.ok clk) : h.loopStartIdx ≤ h.seq.length := by
  obtain ⟨-, hstart, hend, -⟩ := hok
  exact hstart.trans hend

theorem Scheduler.ok.endIdx_le (hok : h.ok clk) : h.endIdx ≤ h.seq.length := by
  obtain ⟨-, -, hend, -⟩ := hok
  unfold Scheduler.endIdx
  split
  · exact hend
  · exact le_refl _

theorem Scheduler.ok.timer_iff (hok : h.ok clk) : h.timer.isSome ↔ h.mode = .playing := by
  obtain ⟨-, -, -, htimer, -⟩ := hok
  exact htimer

theorem Scheduler.ok.loopDur_nonneg (hok : h.ok clk) (hsong : songOk h.seq) : 0 ≤ h.loopDur := by
  obtain ⟨-, -, -, -, -, hordered⟩ := hok
  exact (hordered hsong).1

theorem Scheduler.ok.anchor_nonneg (hok : h.ok clk) (hsong : songOk h.seq) : 0 ≤ h.anchor := by
  obtain ⟨-, -, -, -, -, hordered⟩ := hok
  exact (hordered hsong).2.1

theorem Scheduler.ok.pausedElapsed_le (hok : h.ok clk) (hsong : songOk h.seq) (hpaused : h.mode = .paused) :
    h.pausedElapsed ≤ clk := by
  obtain ⟨-, -, -, -, -, hordered⟩ := hok
  exact (hordered hsong).2.2.2 hpaused

/-- The clock enters only as a bound on the elapsed time of a pause. -/
theorem Scheduler.ok.mono {clk' : Rat} (hok : h.ok clk) (hclk : clk ≤ clk') : h.ok clk' := by
  obtain ⟨hcursor, hstart, hend, htimer, hscan, hordered⟩ := hok
  refine ⟨hcursor, hstart, hend, htimer, hscan, fun hsong => ?_⟩
  obtain ⟨hdur, hanchor, hlast, hpaused⟩ := hordered hsong
  exact ⟨hdur, hanchor, hlast, fun hmode => (hpaused hmode).trans hclk⟩

/-! ## Moving the playback of a song -/

/-- An operation that leaves the song alone keeps the host good, if the cursor stays in the song, the timer runs in
Playing only, and neither the anchor nor the elapsed time of a pause goes before the machine's start. -/
theorem Scheduler.ok.moved (hok : h.ok clk)
    (hplayback : k = { h with mode := k.mode, anchor := k.anchor, cursor := k.cursor,
                              pausedElapsed := k.pausedElapsed, timer := k.timer })
    (hcursor : k.cursor ≤ h.seq.length) (htimer : k.timer.isSome ↔ k.mode = .playing)
    (hanchor : songOk h.seq → 0 ≤ k.anchor)
    (hpaused : songOk h.seq → k.mode = .paused → k.pausedElapsed ≤ clk) : k.ok clk := by
  obtain ⟨-, hstart, hend, -, hscan, hordered⟩ := hok
  have hscan' : k.scan = k := by
    rw [Scheduler.scan_congr (a := h) (by rw [hplayback]) (by rw [hplayback]), hscan, hplayback]
  rw [hplayback] at hscan' ⊢
  refine ⟨hcursor, hstart, hend, htimer, hscan', fun hsong => ?_⟩
  obtain ⟨hdur, -, hlast, -⟩ := hordered hsong
  exact ⟨hdur, hanchor hsong, hlast, hpaused hsong⟩

/-- The window of a pump ends in the song (R289). -/
theorem Scheduler.cursor_add_batch_le (p : Params) (now : Rat) (hcursor : h.cursor ≤ h.seq.length) :
    h.cursor + (h.batch p now).length ≤ h.seq.length := by
  have hle := (List.takeWhile_sublist (fun e : Event => decide (e.time ≤ h.horizon p now))
    (l := (h.seq.take h.endIdx).drop h.cursor)).length_le
  rw [List.length_drop, List.length_take] at hle
  unfold Scheduler.batch
  omega

/-- A pump keeps the host good, by induction on its wraps: a wrap moves the anchor on by the length of the loop. -/
theorem Scheduler.ok.pumpLoop {now : Rat} {n : Nat} (hok : h.ok clk) (hp : h.pumpLoop p now n = some (k, ws)) :
    k.ok clk := by
  induction n using Nat.strong_induction_on generalizing h ws with
  | _ n ih =>
    have hbatch := Scheduler.cursor_add_batch_le p now hok.cursor_le
    obtain ⟨ws₀, -, ⟨-, rfl, -⟩ | ⟨-, -, m, ws₁, rfl, -, hwrap⟩ | ⟨-, -, -, rfl, -⟩⟩ := Scheduler.pumpLoop_cases hp
    · exact hok.moved rfl hbatch hok.timer_iff hok.anchor_nonneg hok.pausedElapsed_le
    · refine ih m (Nat.lt_succ_self m) ?_ hwrap
      exact hok.moved rfl hok.loopStartIdx_le hok.timer_iff
        (fun hsong => add_nonneg (hok.anchor_nonneg hsong) (hok.loopDur_nonneg hsong)) hok.pausedElapsed_le
    · exact hok.moved rfl hbatch (by simp) hok.anchor_nonneg (by simp)

theorem Scheduler.ok.tick {now : Rat} (hok : h.ok clk) (ht : h.tick p now = some (k, ws)) : k.ok clk := by
  unfold Scheduler.tick at ht
  split at ht
  · exact hok.pumpLoop ht
  · cases ht
    exact hok

/-- A timer that is due runs, so the host is Playing and its next firing is set (R288). -/
theorem Scheduler.ok.fire (hok : h.ok clk) (hf : h.fire p clk = some (k, ws)) : k.ok clk := by
  have hmoved : ({ h with timer := h.timer.map (· + p.pumpPeriodS) } : Scheduler).ok clk :=
    hok.moved rfl hok.cursor_le (by simpa using hok.timer_iff) hok.anchor_nonneg hok.pausedElapsed_le
  exact hmoved.tick hf

theorem Scheduler.ok.stop (hok : h.ok clk) : h.stop.1.ok clk :=
  hok.moved rfl hok.cursor_le (by simp [Scheduler.stop]) hok.anchor_nonneg (by simp [Scheduler.stop])

/-- The elapsed time of a pause is at most the clock, because the anchor is not before the start (R297). -/
theorem Scheduler.ok.pause (hok : h.ok clk) (hclk : 0 ≤ clk) : (h.pause clk).1.ok clk := by
  unfold Scheduler.pause
  split
  · refine hok.moved rfl hok.cursor_le (by simp) hok.anchor_nonneg fun hsong _ => ?_
    exact max_le hclk (sub_le_self clk (hok.anchor_nonneg hsong))
  · exact hok

theorem Scheduler.ok.resumeCursor_le (hok : h.ok clk) : h.resumeCursor ≤ h.seq.length := by
  unfold Scheduler.resumeCursor
  cases hfind : h.seq.findIdx? fun e => decide (h.pausedElapsed ≤ e.time) with
  | none => exact hok.endIdx_le
  | some i => exact (List.findIdx?_eq_some_iff_getElem.mp hfind).1.le

/-- The anchor of a resumed song is not before the start, because the elapsed time is at most the clock (R298). -/
theorem Scheduler.ok.resume (hok : h.ok clk) (hlead : 0 ≤ p.leadS) (hr : h.resume p clk = some (k, ws)) :
    k.ok clk := by
  unfold Scheduler.resume at hr
  split at hr
  · rename_i hpaused
    refine Scheduler.ok.tick (hok.moved rfl hok.resumeCursor_le (by simp) (fun hsong => ?_) (by simp)) hr
    have helapsed := hok.pausedElapsed_le hsong hpaused
    dsimp only
    linarith
  · cases hr
    exact hok

/-! ## Starting a song (R283 to R286) -/

/-- No event of a song in order lies past its last one. -/
theorem songOk.time_le_getLast {seq : List Event} {last : Event} (hsong : songOk seq)
    (hlast : seq.getLast? = some last) : ∀ e ∈ seq, e.time ≤ last.time := by
  obtain ⟨init, rfl⟩ := List.getLast?_eq_some_iff.mp hlast
  obtain ⟨hordered, -⟩ := hsong
  rw [List.map_append, List.pairwise_append] at hordered
  obtain ⟨-, -, hbefore⟩ := hordered
  intro e he
  rcases List.mem_append.mp he with he | he
  · exact hbefore _ (List.mem_map_of_mem he) _ (by simp)
  · rw [List.mem_singleton.mp he]

/-- The host as `play` starts it, whatever it did before: the song with the loop fields of its scan, Playing from its
first event on. -/
theorem Scheduler.started_ok {song : Scheduler} {last : Event} (loop : Bool) (timer : Rat) (hclk : 0 ≤ clk)
    (hlead : 0 ≤ p.leadS) (hlast : song.seq.getLast? = some last) (htotal : song.total = last.time) :
    ({ song.scan with looping := loop, anchor := clk + p.leadS, cursor := 0, mode := .playing, timer := some timer }
      : Scheduler).ok clk := by
  refine ⟨Nat.zero_le _, song.scan_loopStartIdx_le, ?_, by simp, Scheduler.scan_congr song.scan_seq song.scan_total, ?_⟩
  · simpa using song.scan_loopEndIdx_le
  · simp only [Scheduler.scan_seq, Scheduler.scan_total, htotal]
    intro hsong
    have htotal0 : 0 ≤ song.total := htotal ▸ hsong.2 _ (List.mem_of_getLast? hlast)
    exact ⟨Scheduler.scan_loopDur_nonneg htotal0, add_nonneg hclk hlead, songOk.time_le_getLast hsong hlast, by simp⟩

theorem Scheduler.ok.play {seq : List Event} {loop : Bool} (hok : h.ok clk) (hclk : 0 ≤ clk) (hlead : 0 ≤ p.leadS)
    (hplay : h.play p clk seq loop = some (k, ws)) : k.ok clk := by
  unfold Scheduler.play at hplay
  dsimp only at hplay
  split at hplay
  · obtain rfl : (if h.mode = .stopped then (h, []) else h.stop).1 = k := congrArg Prod.fst (Option.some.inj hplay)
    split
    · exact hok
    · exact hok.stop
  · rename_i last hlast
    split at hplay
    · cases hplay
    · rename_i htick
      cases hplay
      exact (Scheduler.started_ok loop _ hclk hlead hlast rfl).tick htick

end

/-! ## Every step keeps the invariant -/

section
variable {s s' : State}

theorem State.Inv.clk_nonneg (h : s.Inv) : 0 ≤ s.clk := by
  obtain ⟨hfs, -⟩ := h.par
  exact div_nonneg s.clkN.cast_nonneg hfs.le

theorem State.sampleTick_clk (s : State) : s.sampleTick.clk = s.clk + 1 / s.par.fs := by
  simp [State.clk, add_div]

/-- The sample tick (R220): the phases of both tables advance with the clock. -/
theorem State.Inv.sampleTick (h : s.Inv) : s.sampleTick.Inv := by
  obtain ⟨hfs, -⟩ := h.par
  refine { h with
    voiceLimit := (List.length_map _).trans_le h.voiceLimit
    keys := ?_
    live := ?_
    leaving := ?_
    voices := ?_
    host := h.host.mono ?_ }
  · rw [State.sampleTick_vt, Voice.map_key_map fun v => by rw [Voice.ticked_eq]]
    exact h.keys
  · intro w hw
    obtain ⟨v, hv, rfl⟩ := List.mem_map.mp hw
    rw [Voice.ticked_eq]
    exact h.live v hv
  · intro w hw
    obtain ⟨v, hv, rfl⟩ := List.mem_map.mp hw
    rw [Voice.ticked_eq]
    exact h.leaving v hv
  · intro w hw
    rw [State.sampleTick_vt, State.sampleTick_tails, ← List.map_append] at hw
    obtain ⟨v, hv, rfl⟩ := List.mem_map.mp hw
    rw [State.sampleTick_clk]
    exact Voice.ticked_ok hfs (h.voices v hv)
  · rw [State.sampleTick_clk]
    exact le_add_of_nonneg_right (one_div_pos.mpr hfs).le

/-- A 16-bit operand gives one of the 32769 volumes of R15 (R88). -/
theorem masterVolume_ok (vol16 : BitVec 16) :
    0 ≤ masterVolume vol16 ∧ masterVolume vol16 ≤ 1 ∧ (masterVolume vol16 * 32768).den = 1 := by
  have hle : ((min vol16.toNat 0x8000 : Nat) : Rat) ≤ 0x8000 := by exact_mod_cast min_le_right _ _
  unfold masterVolume
  refine ⟨by positivity, (div_le_one (by norm_num)).mpr hle, ?_⟩
  rw [div_mul_cancel₀ _ (by norm_num)]
  rfl

/-- Every change that a command can make keeps the invariant. -/
theorem State.Inv.commandChange (h : s.Inv) (hc : s.CommandChange s') : s'.Inv := by
  cases hc with
  | unchanged => exact h
  | channel c x => exact { h with }
  | retuned c x t cents => exact State.Inv.retarget (s := s.setChan c x) { h with } c t cents
  | released k t => exact h.purge.releaseKey k t
  | allocated k vel t _ => exact h.allocate k vel t
  | silenced => exact h.purge.silence
  | channelsReset => exact { h with }
  | volume vol16 => exact { h with volume := masterVolume_ok vol16 }
  | device handle _ _ => exact { h with cache := ⟨List.nodup_nil, by simp⟩ }
  | bankCleared mel perc _ =>
    refine { h with melodic := ?_, percussion := ?_ }
    · dsimp only
      split
      · exact Memory.wf_clearValid h.melodic
      · exact h.melodic
    · dsimp only
      split
      · exact Memory.wf_clearValid h.percussion
      · exact h.percussion
  | patchWritten sp idx e _ =>
    obtain ⟨hmel, hperc⟩ := State.patchWrite_wf sp idx e h.melodic h.percussion
    cases sp
    · exact { h with melodic := hmel }
    · exact { h with percussion := hperc }

theorem State.Inv.issue (h : s.Inv) {k : Scheduler} (hk : k.ok s.clk) (ws : List PortWord) : (s.issue k ws).Inv :=
  { h with host := hk }

theorem State.Inv.answer_ok (h : s.Inv) {c : HostCall} {k : Scheduler} {ws : List PortWord}
    (ha : s.answer c = some (k, ws)) : k.ok s.clk := by
  obtain ⟨-, -, -, -, -, -, -, hlead, -⟩ := h.par
  cases c with
  | play seq loop => exact h.host.play h.clk_nonneg hlead ha
  | pause =>
    obtain rfl : (s.sched.pause s.clk).1 = k := congrArg Prod.fst (Option.some.inj ha)
    exact h.host.pause h.clk_nonneg
  | resume => exact h.host.resume hlead ha
  | stop =>
    obtain rfl : s.sched.stop.1 = k := congrArg Prod.fst (Option.some.inj ha)
    exact h.host.stop
  | setMasterVolume x =>
    obtain rfl : s.sched = k := congrArg Prod.fst (Option.some.inj ha)
    exact h.host
  | loadBank bytes =>
    obtain rfl : s.sched = k := congrArg Prod.fst (Option.some.inj ha)
    exact h.host
  | tick => exact h.host.tick ha

theorem State.Inv.deliver (h : s.Inv) {i : Input} (hd : s.deliver i = .next s') : s'.Inv := by
  cases i with
  | word w => cases hd; exact { h with }
  | call c =>
    obtain ⟨k, ws, ha, rfl⟩ := State.hostCall_cases hd
    exact h.issue (h.answer_ok ha) ws
  | reset => cases hd; exact { State.resetWith_inv h.par with }

/-- Settles O8: a waiting word makes a command's change, an input or the timer moves the host, and the tick advances
the voices. -/
theorem stepKeepsInv : Obligations.StepKeepsInv := by
  intro s s' h hstep
  rcases step_cases hstep with ⟨w, rest, i, -, -, hexec⟩ | ⟨-, hattend⟩
  · exact State.Inv.commandChange (s := { s with port := rest }) { h with } (exec_commandChange hexec)
  · rcases attend_cases hattend with ⟨n, i, rest, -, -, hdeliver⟩ | ⟨-, hfire⟩ | rfl
    · exact State.Inv.deliver (s := { s with env := rest }) { h with } hdeliver
    · obtain ⟨k, ws, hf, rfl⟩ := hostOutcome_cases hfire
      exact h.issue (h.host.fire hf) ws
    · exact h.sampleTick

end

end Sys2Proof.Machine
end

section
/-! PROOFS. Patch records and patch-port words (20_memory.md R43 to R45, 30_encoding.md R86 d): where a record holds the
fields of its patch, that packing and unpacking are inverse, and which patch-port words decode. -/

namespace Sys2Proof

/-! ## Records (R44, R45) -/

/-- A field within a field. -/
theorem extract_extract {n : Nat} {x : BitVec n} {b m s l : Nat} (h : s + l ≤ m) :
    (x.extractLsb' b m).extractLsb' s l = x.extractLsb' (b + s) l := by
  ext i hi
  simp only [BitVec.getElem_extractLsb', BitVec.getLsbD_extractLsb', Nat.add_assoc]
  simp [show s + i < m by omega]

/-- A field of the operator at bit `b` of a record stands at its offset from there (R44). -/
theorem unpackOperator_extract (r : RecordWord) (b : Nat) :
    unpackOperator (r.extractLsb' b 40) =
      { am := r.getLsbD (b + 7), vib := r.getLsbD (b + 6), egt := r.getLsbD (b + 5), ksr := r.getLsbD (b + 4),
        mult := r.extractLsb' b 4, ksl := r.extractLsb' (b + 14) 2, tl := r.extractLsb' (b + 8) 6,
        ar := r.extractLsb' (b + 20) 4, dr := r.extractLsb' (b + 16) 4, sl := r.extractLsb' (b + 28) 4,
        rr := r.extractLsb' (b + 24) 4, ws := r.extractLsb' (b + 32) 2 } := by
  simp [unpackOperator, extract_extract]

/-- The number in a packed record: its operators, algorithm and feedback at bits 0, 40, 80 and 81 (R44). -/
theorem pack_toNat (p : Patch) : (pack p).toNat = (packOperator p.m).toNat + 2 ^ 40 * (packOperator p.c).toNat +
    2 ^ 80 * (algorithmBit p.alg).toNat + 2 ^ 81 * p.fb.toNat := by
  simp only [pack, toNat_append_eq, ofBool_toNat_eq, BitVec.toNat_ofNat]
  omega

/-- Unpacking undoes packing (R45). -/
theorem unpack_pack (p : Patch) : unpack (pack p) = p := by
  have hm := packOperator_lt p.m
  have hc := packOperator_lt p.c
  have halg := Bool.toNat_le (algorithmBit p.alg)
  have m_bytes : (pack p).extractLsb' 0 40 = packOperator p.m := by
    apply BitVec.eq_of_toNat_eq
    rw [extract_toNat_eq, pack_toNat]
    omega
  have c_bytes : (pack p).extractLsb' 40 40 = packOperator p.c := by
    apply BitVec.eq_of_toNat_eq
    rw [extract_toNat_eq, pack_toNat]
    omega
  have fb_bits : (pack p).extractLsb' 81 3 = p.fb := by
    apply BitVec.eq_of_toNat_eq
    rw [extract_toNat_eq, pack_toNat]
    omega
  have alg_bit : (pack p).getLsbD 80 = algorithmBit p.alg := by
    rw [getLsbD_eq_mod, pack_toNat]
    cases algorithmBit p.alg <;> simp <;> omega
  simp only [unpack, m_bytes, c_bytes, fb_bits, alg_bit, unpackOperator_packOperator, algorithmOf_bit]

/-- A packed record has its must-be-0 bits 0 (R44, R45). -/
theorem recordZeros_pack (p : Patch) : recordZeros (pack p) = true := by
  have hm := packOperator_lt p.m
  have hc := packOperator_lt p.c
  have halg := Bool.toNat_le (algorithmBit p.alg)
  rw [recordZeros_iff, pack_toNat]
  omega

/-- The must-be-0 bits of a record as fields (R44). -/
theorem recordZeros_eq_true (r : RecordWord) : recordZeros r = true ↔
    r.extractLsb' 34 6 = 0#6 ∧ r.extractLsb' 74 6 = 0#6 ∧ r.extractLsb' 84 4 = 0#4 := by
  simp only [recordZeros, Bool.and_eq_true, beq_iff_eq, and_assoc]

/-- Packing undoes unpacking, where the must-be-0 bits are 0 (R45). -/
theorem pack_unpack {r : RecordWord} (h : recordZeros r = true) : pack (unpack r) = r := by
  obtain ⟨hm, hc, htop⟩ := (recordZeros_eq_true r).mp h
  have m_zeros : (r.extractLsb' 0 40).extractLsb' 34 6 = 0#6 := by rwa [extract_extract (by omega)]
  have c_zeros : (r.extractLsb' 40 40).extractLsb' 34 6 = 0#6 := by rwa [extract_extract (by omega)]
  simp only [pack, unpack, packOperator_unpackOperator _ m_zeros, packOperator_unpackOperator _ c_zeros,
    algorithmBit_of, ofBool_getLsbD, ← htop]
  iterate 4 rw [BitVec.extractLsb'_append_extractLsb'_eq_extractLsb' (by rfl)]
  exact BitVec.extractLsb'_eq_self

/-! ## Patch-port words (R43, R86 d) -/

theorem decode_patch_of_zeros {w : PatchWord} (h : w.extractLsb' 88 7 = 0#7)
    (hrec : recordZeros (w.extractLsb' 0 88) = true) :
    decode (.patch w) = .ok (.patchWr (spaceOf (w.getLsbD 103)) (w.extractLsb' 96 7) (w.getLsbD 95)
      (unpack (w.extractLsb' 0 88))) := by
  simp [decode, decodePatch, h, hrec]

theorem decode_patch_of_recordZeros_false {w : PatchWord} (h : recordZeros (w.extractLsb' 0 88) = false) :
    decode (.patch w) = .error .patchBits := by
  simp [decode, decodePatch, h]

/-- The fields of a joined patch-port word are the fields (R43). -/
theorem patchWord_fields (sp : Bool) (idx : Data7) (valid : Bool) (r : RecordWord) :
    let w : PatchWord := BitVec.ofBool sp ++ idx ++ BitVec.ofBool valid ++ 0#7 ++ r
    w.extractLsb' 88 7 = 0#7 ∧ w.extractLsb' 0 88 = r ∧ w.getLsbD 103 = sp ∧ w.extractLsb' 96 7 = idx ∧
      w.getLsbD 95 = valid := by
  intro w
  have hsp := Bool.toNat_le sp
  have hvalid := Bool.toNat_le valid
  have w_toNat : w.toNat = r.toNat + 2 ^ 95 * valid.toNat + 2 ^ 96 * idx.toNat + 2 ^ 103 * sp.toNat := by
    simp only [w, toNat_append_eq, ofBool_toNat_eq, BitVec.toNat_ofNat]
    omega
  refine ⟨BitVec.eq_of_toNat_eq ?_, BitVec.eq_of_toNat_eq ?_, ?_, BitVec.eq_of_toNat_eq ?_, ?_⟩ <;>
    simp only [extract_toNat_eq, getLsbD_eq_mod, w_toNat, BitVec.toNat_ofNat]
  · omega
  · omega
  · cases sp <;> simp <;> omega
  · omega
  · cases valid <;> simp <;> omega

/-- The word that spells a PATCH_WR decodes to it (R43, R45). -/
theorem decode_encode_patchWr (sp : Space) (idx : Data7) (valid : Bool) (p : Patch) :
    decode (encode (.patchWr sp idx valid p)) = .ok (.patchWr sp idx valid p) := by
  obtain ⟨hzeros, hrec, hsp, hidx, hvalid⟩ := patchWord_fields (spaceBit sp) idx valid (pack p)
  rw [encode, patchWord, decode_patch_of_zeros hzeros (by rw [hrec]; exact recordZeros_pack p),
    hrec, hsp, hidx, hvalid, spaceOf_bit, unpack_pack]

/-- Settles O5: the layout field by field, the two inverses, and the reserved records by the decoder's test. -/
theorem patchRecordLayout : Obligations.PatchRecordLayout := by
  refine ⟨fun r => ?layout, fun p => ⟨unpack_pack p, (recordZeros_eq_true _).mp (recordZeros_pack p)⟩,
    fun r hm hc htop => pack_unpack ((recordZeros_eq_true r).mpr ⟨hm, hc, htop⟩), fun r hbad w hw => ?reserved,
    by decide⟩
  case layout => simp only [unpack, unpackOperator_extract, algorithmOf]
  case reserved =>
    subst hw
    refine decode_patch_of_recordZeros_false (Bool.eq_false_iff.mpr fun hzeros => ?_)
    obtain ⟨hm, hc, htop⟩ := (recordZeros_eq_true _).mp hzeros
    rcases hbad with h | h | h
    · exact h hm
    · exact h hc
    · exact h htop

end Sys2Proof
end

section
/-! PROOFS. The write to the patch memories (20_memory.md R43; 70_reset_and_hazards.md R362): when it is refused, what
it reads as afterwards, and what it leaves. -/

namespace Sys2Proof.Machine

/-! ## Unfinished voices (R362) -/

theorem State.holdsUnfinished_eq_true {s : State} :
    s.holdsUnfinished = true ↔ ∃ v ∈ s.vt ++ s.tails, stoppedBy v.stop s.clk = false := by
  simp only [State.holdsUnfinished, ← List.any_append, List.any_eq_true, Voice.unfinished, Bool.not_eq_true']

theorem State.holdsUnfinished_eq_false {s : State} :
    s.holdsUnfinished = false ↔ ∀ v ∈ s.vt ++ s.tails, stoppedBy v.stop s.clk = true := by
  simp only [State.holdsUnfinished, ← List.any_append, List.any_eq_false, Voice.unfinished, Bool.not_eq_true',
    Bool.not_eq_false]

/-! ## The write (R43, R52) -/

/-- The memory of a space after a write: the written one for its own space, the old one for the other. -/
theorem State.patches_patchWrite (s : State) (sp sp' : Space) (idx : Data7) (e : PatchEntry) :
    (s.patchWrite sp idx e).patches sp' =
      if sp' = sp then (s.patches sp).write idx.toNat e else s.patches sp' := by
  cases sp <;> cases sp' <;> rfl

theorem State.patches_wf {s : State} (hmel : s.pmMel.wf) (hperc : s.pmPerc.wf) : ∀ sp, (s.patches sp).wf
  | .melodic => hmel
  | .percussion => hperc

/-- A read of either space after a write: the entry written at its place, the old one at every other. -/
theorem State.read_patchWrite {s : State} (hwf : ∀ sp, (s.patches sp).wf) (sp sp' : Space) (idx : Data7)
    (e : PatchEntry) (i : Nat) :
    ((s.patchWrite sp idx e).patches sp').read i =
      if (sp', i) = (sp, idx.toNat) then e else (s.patches sp').read i := by
  rw [s.patches_patchWrite]
  by_cases hsp : sp' = sp
  · subst hsp
    rw [if_pos rfl, Memory.read_write (hwf sp')]
    simp only [Prod.mk.injEq, true_and, eq_comm]
  · rw [if_neg hsp, if_neg fun h => hsp (congrArg Prod.fst h)]

/-- A write changes the patch memories only. -/
theorem State.patchWrite_eq (s : State) (sp : Space) (idx : Data7) (e : PatchEntry) :
    s.patchWrite sp idx e =
      { s with pmMel := (s.patchWrite sp idx e).pmMel, pmPerc := (s.patchWrite sp idx e).pmPerc } := by
  cases sp <;> rfl

/-- A valid melodic entry is the patch of its program (R100, the bank override). -/
theorem State.getPatch_of_valid {s : State} {prog : Data7} {p : Patch}
    (h : s.pmMel.read prog.toNat = { valid := true, patch := p }) : s.getPatch prog = p := by
  simp [State.getPatch, h]

theorem exec_patchWr_of_finished {s : State} (h : s.holdsUnfinished = false) (sp : Space) (idx : Data7) (valid : Bool)
    (p : Patch) :
    exec (.patchWr sp idx valid p) s = .next (s.patchWrite sp idx { valid := valid, patch := p }) := by
  simp [exec, execPatchWr, h]

theorem exec_patchWr_of_unfinished {s : State} (h : s.holdsUnfinished = true) (sp : Space) (idx : Data7) (valid : Bool)
    (p : Patch) : exec (.patchWr sp idx valid p) s = .refused .patchWriteWhileUnfinished := by
  simp [exec, execPatchWr, h]

/-- Settles O52: the decoder's test, then what a read gives after the write. -/
theorem patchWrite : Obligations.PatchWrite := by
  refine ⟨fun w hzeros hrec => decode_patch_of_zeros hzeros hrec, fun s sp idx valid p => ⟨?completes, ?refused⟩⟩
  case completes =>
    intro hfinished hmel hperc
    have hread := fun sp' i => s.read_patchWrite (State.patches_wf hmel hperc) sp sp' idx ⟨valid, p⟩ i
    refine ⟨_, exec_patchWr_of_finished (State.holdsUnfinished_eq_false.mpr hfinished) sp idx valid p, ?_, ?_,
      s.patchWrite_eq sp idx _, ?_⟩
    · rw [hread, if_pos rfl]
    · intro sp' i hother
      rw [hread, if_neg hother]
    · rintro rfl rfl
      exact State.getPatch_of_valid ((hread .melodic idx.toNat).trans (if_pos rfl))
  case refused =>
    intro hunfinished
    exact exec_patchWr_of_unfinished (State.holdsUnfinished_eq_true.mpr hunfinished) sp idx valid p

end Sys2Proof.Machine
end

section
/-! PROOFS. The bank loader (20_memory.md R47 to R49, 30_encoding.md R91): when the header parses, which word each
entry of the names table gives, and which spaces the bank covers. -/

namespace Sys2Proof.Machine

/-! ## The header (R47, R48) -/

/-- Where R48 says that parsing fails, with the model's table tests (log 21). -/
def bankMalformed (body : List FileByte) : Prop :=
  body.take 6 ≠ Config.bankSignature.toList ∨ body.length < 18 ∨
    body.length < le32 body 10 + 12 * le16 body 6 ∨ body.length < le32 body 14 + 30 * le16 body 8

theorem bankMalformed_iff (body : List FileByte) : bankMalformed body ↔
    ¬ (body.take 6 = Config.bankSignature.toList ∧ 18 ≤ body.length ∧
      le32 body 10 + 12 * le16 body 6 ≤ body.length ∧ le32 body 14 + 30 * le16 body 8 ≤ body.length) := by
  simp only [bankMalformed, not_and_or, not_le, ne_eq]

/-- The header fields of R47. -/
def bankHeader (body : List FileByte) : BankHeader :=
  { entryCount := le16 body 6, instrumentCount := le16 body 8, namesOffset := le32 body 10,
    instrumentsOffset := le32 body 14 }

theorem parseHeader_of_malformed {body : List FileByte} (h : bankMalformed body) : parseHeader body = none :=
  if_neg ((bankMalformed_iff body).mp h)

theorem parseHeader_of_not_malformed {body : List FileByte} (h : ¬ bankMalformed body) :
    parseHeader body = some (bankHeader body) :=
  if_pos (not_not.mp (mt (bankMalformed_iff body).mpr h))

/-! ## The entries (R49) -/

/-- The PATCH_WR of a usable entry (R49, R91). -/
def BankWrite.word (w : BankWrite) : PortWord := encode (.patchWr w.space w.idx true w.patch)

/-- What the loader issues for a bank that parses (R91). -/
theorem bankWords_of_not_malformed {body : List FileByte} (h : ¬ bankMalformed body) :
    bankWords body =
      encode (.bankClr ((bankWrites body (bankHeader body)).any (·.space = .melodic))
        ((bankWrites body (bankHeader body)).any (·.space = .percussion)) 0#64) ::
        (bankWrites body (bankHeader body)).map BankWrite.word := by
  rw [bankWords, parseHeader_of_not_malformed h]
  rfl

theorem bankWords_of_malformed {body : List FileByte} (h : bankMalformed body) : bankWords body = [] := by
  rw [bankWords, parseHeader_of_malformed h]

/-- A percussion entry is usable up to tag 127, and goes to the note of its tag (log 21). -/
theorem bankSlot_percussion (tag : FileByte) : bankSlot .percussion tag =
    if tag.toNat < 128 then some (.percussion, BitVec.ofNat 7 tag.toNat) else none := by
  revert tag
  decide

/-- The words of the usable entries, in the order of the names table (log 31). -/
theorem map_word_bankWrites (body : List FileByte) (h : BankHeader) :
    (bankWrites body h).map BankWrite.word =
      (List.range h.entryCount).filterMap fun k => (bankEntry body h k).map BankWrite.word := by
  rw [bankWrites, List.map_filterMap]

/-- The word of an entry: none where its index is past the table or its target is not usable, else the write of its
record's patch to its slot (R49, logs 21 and 33). -/
theorem bankEntry_word (body : List FileByte) (h : BankHeader) (k : Nat) :
    (bankEntry body h k).map BankWrite.word =
      let index := le16 body (h.namesOffset + 12 * k)
      let tag := body.getD (h.namesOffset + 12 * k + 2) 0#8
      let patch := Config.bankRecord ((body.drop (h.instrumentsOffset + 30 * index)).take 30)
      if index < h.instrumentCount then
        match Config.bankTarget body k with
        | some (.melodic program) => some (encode (.patchWr .melodic program true patch))
        | some .percussion =>
          if tag.toNat < 128 then some (encode (.patchWr .percussion (BitVec.ofNat 7 tag.toNat) true patch)) else none
        | none => none
      else none := by
  unfold bankEntry
  by_cases hindex : le16 body (h.namesOffset + 12 * k) < h.instrumentCount
  · simp only [hindex, if_true]
    cases Config.bankTarget body k with
    | none => rfl
    | some target =>
      cases target with
      | melodic program => rfl
      | percussion =>
        simp only [Option.bind_some, bankSlot_percussion]
        split <;> rfl
  · simp only [hindex, if_false, Option.map_none]

/-- The word of a write decodes to a valid PATCH_WR of exactly the write's space. -/
theorem BankWrite.decode_word_iff (w : BankWrite) (sp : Space) :
    (∃ idx p, decode w.word = .ok (.patchWr sp idx true p)) ↔ w.space = sp := by
  rw [BankWrite.word, decode_encode_patchWr]
  constructor
  · rintro ⟨idx, p, h⟩
    cases h
    rfl
  · rintro rfl
    exact ⟨w.idx, w.patch, rfl⟩

/-- The bank covers a space exactly where some word of it writes there (R91). -/
theorem any_space_iff (ws : List BankWrite) (sp : Space) : ws.any (·.space = sp) = true ↔
    ∃ x ∈ ws.map BankWrite.word, ∃ idx p, decode x = .ok (.patchWr sp idx true p) := by
  simp only [List.any_eq_true, decide_eq_true_eq, List.mem_map, exists_exists_and_eq_and, BankWrite.decode_word_iff]

/-- Settles O60: by the parse of the header, then entry by entry. -/
theorem bankLoad : Obligations.BankLoad := by
  refine ⟨fun s bytes => ⟨rfl, rfl⟩, fun body => ⟨bankWords_of_malformed, fun hsig hlen hnames hinstr => ?_⟩⟩
  have hgood : ¬ bankMalformed body := fun h => (bankMalformed_iff body).mp h ⟨hsig, hlen, hnames, hinstr⟩
  intro index tag patch write writes
  have hwrites : (bankWrites body (bankHeader body)).map BankWrite.word = writes := by
    rw [map_word_bankWrites]
    exact congrArg (List.filterMap · _) (funext fun k => bankEntry_word body (bankHeader body) k)
  rw [← hwrites]
  exact ⟨_, _, bankWords_of_not_malformed hgood, any_space_iff _ .melodic, any_space_iff _ .percussion⟩

end Sys2Proof.Machine
end

section
/-! PROOFS. Which agent a step runs (20_memory.md R54, 10_state.md R13, 30_encoding.md R89; log 15): the command agent
while a word waits, else the oldest input once it is due. -/

namespace Sys2Proof.Machine

theorem State.fetch_of_port {s : State} {w : PortWord} {rest : List PortWord} (h : s.port = w :: rest) :
    s.fetch = some (w, { s with port := rest }) := by
  simp [State.fetch, h]

theorem State.fetch_of_port_nil {s : State} (h : s.port = []) : s.fetch = none := by
  simp [State.fetch, h]

/-- While a word waits, the step is the command it decodes to. -/
theorem step_of_decode {s : State} {w : PortWord} {rest : List PortWord} {i : Instr} (hport : s.port = w :: rest)
    (hdecode : decode w = .ok i) : step s = exec i { s with port := rest } := by
  simp only [step, State.fetch_of_port hport, hdecode]

/-- With no word waiting, the step is the other agents'. -/
theorem step_of_port_nil {s : State} (h : s.port = []) : step s = s.attend := by
  simp only [step, State.fetch_of_port_nil h]

/-- A due input goes first among the other agents (log 15). -/
theorem State.attend_of_due {s : State} {n : Nat} {x : Input} {rest : List (Nat × Input)}
    (henv : s.env = (n, x) :: rest) (hdue : n ≤ s.clkN) : s.attend = ({ s with env := rest } : State).deliver x := by
  simp only [State.attend, henv, hdue, if_true]

/-- Settles O6: by which agent the ports and the inputs select. -/
theorem stepRunsDecodedInstr : Obligations.StepRunsDecodedInstr :=
  ⟨fun _ _ _ _ hport hdecode _ => step_of_decode hport hdecode,
    fun _ _ _ _ hport henv hdue => (step_of_port_nil hport).trans (State.attend_of_due henv hdue),
    fun _ _ => rfl⟩

end Sys2Proof.Machine
end

section
/-! PROOFS. Command-port words (30_encoding.md R70 to R89): what the two formats accept, and that encoding and decoding
undo each other on both ports. -/

namespace Sys2Proof

/-! ## The two formats (R73, R74) -/

theorem withData_eq_ok {f : CommandFields} {k : Data7 → Data7 → Instr} {i : Instr} : withData f k = .ok i ↔
    f.d1.getLsbD 7 = false ∧ f.d2.getLsbD 7 = false ∧ k (low7 f.d1) (low7 f.d2) = i := by
  unfold withData
  cases f.d1.getLsbD 7 <;> cases f.d2.getLsbD 7 <;> simp

theorem withData_isError {f : CommandFields} {k : Data7 → Data7 → Instr} :
    (∃ r, withData f k = .error r) ↔ f.d1.getLsbD 7 = true ∨ f.d2.getLsbD 7 = true := by
  unfold withData
  cases f.d1.getLsbD 7 <;> cases f.d2.getLsbD 7 <;> simp

theorem withZeros_eq_ok {zeros : Bool} {i j : Instr} : withZeros zeros i = .ok j ↔ zeros = true ∧ i = j := by
  cases zeros <;> simp [withZeros]

theorem withZeros_isError {zeros : Bool} {i : Instr} : (∃ r, withZeros zeros i = .error r) ↔ zeros = false := by
  cases zeros <;> simp [withZeros]

/-- A Format E command takes any two data bytes (R73). -/
theorem withData_byteOf (t : TimeField) (op : BitVec 4) (ch : Chan) (x y : Data7) (k : Data7 → Data7 → Instr) :
    withData { t := t, op := op, ch := ch, d1 := byteOf x, d2 := byteOf y } k = .ok (k x y) :=
  withData_eq_ok.mpr ⟨byteOf_msb x, byteOf_msb y, by rw [low7_byteOf, low7_byteOf]⟩

/-! ## Decoding the encoder's words -/

theorem decode_eventWord (t : TimeField) (op : BitVec 4) (ch : Chan) (d1 d2 : BitVec 8) :
    decode (eventWord t op ch d1 d2) = decodeFields { t := t, op := op, ch := ch, d1 := d1, d2 := d2 } :=
  congrArg decodeFields (split_join _)

theorem decode_systemWord (t : TimeField) (op : BitVec 4) (imm16 : BitVec 16) :
    decode (systemWord t op imm16) = decodeFields
      { t := t, op := op, ch := 0#4, d1 := imm16.extractLsb' 8 8, d2 := imm16.extractLsb' 0 8 } :=
  decode_eventWord _ _ _ _ _

theorem decode_controlChange (t : TimeField) (ch : Chan) (cc val : Data7) :
    decode (eventWord t 0xB#4 ch (byteOf cc) (byteOf val)) = .ok (decodeController ch t cc val) :=
  (decode_eventWord _ _ _ _ _).trans (withData_byteOf _ _ _ _ _ _)

/-- A controller without a row of its own is CC_OTHER (R78). -/
theorem decodeController_of_other {cc : Data7} (h : cc ∉ specificControllers) (ch : Chan) (t : TimeField)
    (val : Data7) : decodeController ch t cc val = .ccOther ch cc val t := by
  simp only [specificControllers, List.mem_cons, List.not_mem_nil, or_false, not_or] at h
  simp [decodeController, h]

/-- The two bytes of a 16-bit immediate are the immediate (R74). -/
theorem imm16_bytes (v : BitVec 16) : v.extractLsb' 8 8 ++ v.extractLsb' 0 8 = v := by
  rw [BitVec.extractLsb'_append_extractLsb'_eq_extractLsb' (by rfl)]
  exact BitVec.extractLsb'_eq_self

/-- The immediate of BANK_CLR holds its two flags at bits 0 and 1 (R85). -/
theorem bankClr_imm16 (mel perc : Bool) :
    let imm16 : BitVec 16 := 0#14 ++ BitVec.ofBool perc ++ BitVec.ofBool mel
    imm16.extractLsb' 8 8 = 0#8 ∧ (imm16.extractLsb' 0 8).extractLsb' 2 6 = 0#6 ∧
      (imm16.extractLsb' 0 8).getLsbD 0 = mel ∧ (imm16.extractLsb' 0 8).getLsbD 1 = perc := by
  revert mel perc
  decide

/-- Settles O2, row by row: the encoder's word has the fields it was joined from, and those select the row. -/
theorem decodeEncode : Obligations.DecodeEncode := by
  intro i hwf
  cases i with
  | noteOff ch note d2 t =>
    exact (decode_eventWord _ _ _ _ _).trans (withData_byteOf _ _ _ _ _ fun note d2 => .noteOff ch note d2 t)
  | noteOn ch note vel t =>
    exact (decode_eventWord _ _ _ _ _).trans (withData_byteOf _ _ _ _ _ fun note vel => .noteOn ch note vel t)
  | ccVolume ch val t => exact decode_controlChange t ch 7#7 val
  | ccPan ch val t => exact decode_controlChange t ch 10#7 val
  | ccExpr ch val t => exact decode_controlChange t ch 11#7 val
  | ccReset ch val t => exact decode_controlChange t ch 121#7 val
  | ccLoopStart ch val t => exact decode_controlChange t ch 110#7 val
  | ccLoopEnd ch val t => exact decode_controlChange t ch 111#7 val
  | ccOther ch cc val t =>
    have hother : cc ∉ specificControllers := by simpa [Instr.wellFormed] using hwf
    rw [encode, decode_controlChange, decodeController_of_other hother]
  | progChange ch prog d2 t =>
    rw [encode, decode_eventWord]
    exact (if_neg (Bool.eq_false_iff.mp (byteOf_msb prog))).trans (by rw [low7_byteOf])
  | pitchBend ch lsb msb t =>
    exact (decode_eventWord _ _ _ _ _).trans (withData_byteOf _ _ _ _ _ fun lsb msb => .pitchBend ch lsb msb t)
  | allStop t => exact decode_systemWord t 0x1#4 0#16
  | chReset t => exact decode_systemWord t 0x2#4 0#16
  | mvol vol16 t =>
    rw [encode, decode_systemWord]
    exact withZeros_eq_ok.mpr ⟨rfl, by rw [imm16_bytes]⟩
  | devAttach handle t =>
    rw [encode, decode_systemWord]
    exact withZeros_eq_ok.mpr ⟨rfl, by rw [imm16_bytes]⟩
  | bankClr mel perc t =>
    rw [encode, decode_systemWord]
    obtain ⟨hd1, hzeros, hmel, hperc⟩ := bankClr_imm16 mel perc
    exact withZeros_eq_ok.mpr ⟨by rw [hd1, hzeros]; rfl, by rw [hmel, hperc]⟩
  | patchWr space idx valid patch => exact decode_encode_patchWr space idx valid patch

/-! ## Encoding a decoded instruction -/

/-- A Format E command spelled with its own channel and opcode has the word it was read from. -/
theorem encode_of_withData {f : CommandFields} {op : BitVec 4} {k : Data7 → Data7 → Instr} {i : Instr} (hop : f.op = op)
    (hk : ∀ x y, encode (k x y) = eventWord f.t op f.ch (byteOf x) (byteOf y) ∧ (k x y).wellFormed = true)
    (h : withData f k = .ok i) : encode i = .command (joinCommand f) ∧ i.wellFormed = true := by
  obtain ⟨hd1, hd2, rfl⟩ := withData_eq_ok.mp h
  have hword := hk (low7 f.d1) (low7 f.d2)
  rwa [byteOf_low7 _ hd1, byteOf_low7 _ hd2, ← hop] at hword

/-- A Format S word is the word of its fields, where the channel field is 0 (R74). -/
theorem systemWord_eq_join {f : CommandFields} {op : BitVec 4} (hop : f.op = op) (hch : f.ch = 0#4) :
    systemWord f.t op (f.d1 ++ f.d2) = .command (joinCommand f) := by
  simp only [systemWord, BitVec.extractLsb'_append_eq_left, BitVec.extractLsb'_append_eq_right, ← hop, ← hch]

/-- The immediate of ALL_STOP and CH_RESET is 0 (R81, R82). -/
theorem systemWord_zero_eq_join {f : CommandFields} {op : BitVec 4} (hop : f.op = op)
    (hzeros : (f.ch == 0#4 && f.d1 == 0#8 && f.d2 == 0#8) = true) :
    systemWord f.t op 0#16 = .command (joinCommand f) := by
  simp only [Bool.and_eq_true, beq_iff_eq] at hzeros
  obtain ⟨⟨hch, hd1⟩, hd2⟩ := hzeros
  rw [← systemWord_eq_join hop hch, hd1, hd2]
  rfl

/-- A byte with bits 7:2 clear is its two low bits: the immediate of BANK_CLR (R85). -/
theorem bankClr_imm16_eq (d2 : BitVec 8) (h : d2.extractLsb' 2 6 = 0#6) :
    0#14 ++ BitVec.ofBool (d2.getLsbD 1) ++ BitVec.ofBool (d2.getLsbD 0) = 0#8 ++ d2 := by
  revert d2
  decide

/-- Fields that decode are those of the instruction's word (R75 to R85). -/
theorem encode_of_decodeFields {f : CommandFields} {i : Instr} (h : decodeFields f = .ok i) :
    encode i = .command (joinCommand f) ∧ i.wellFormed = true := by
  have opcode {n : Nat} (hop : f.op.toNat = n) : f.op = BitVec.ofNat 4 n := by
    rw [← hop, BitVec.ofNat_toNat, BitVec.setWidth_eq]
  -- The cases are the opcodes of R75 in order: 0x1 to 0x5, 0x8, 0x9, 0xB, 0xC, 0xE, and those that name no command.
  unfold decodeFields at h
  split at h
  case h_1 hop | h_2 hop =>
    obtain ⟨hzeros, rfl⟩ := withZeros_eq_ok.mp h
    exact ⟨systemWord_zero_eq_join (opcode hop) hzeros, rfl⟩
  case h_3 hop | h_4 hop =>
    obtain ⟨hch, rfl⟩ := withZeros_eq_ok.mp h
    exact ⟨systemWord_eq_join (opcode hop) (beq_iff_eq.mp hch), rfl⟩
  case h_5 hop =>
    obtain ⟨hzeros, rfl⟩ := withZeros_eq_ok.mp h
    simp only [Bool.and_eq_true, beq_iff_eq] at hzeros
    obtain ⟨⟨hch, hd1⟩, hd2⟩ := hzeros
    refine ⟨?_, rfl⟩
    rw [encode, bankClr_imm16_eq f.d2 hd2, ← hd1, systemWord_eq_join (opcode hop) hch]
  case h_6 hop | h_7 hop | h_10 hop => exact encode_of_withData (opcode hop) (fun _ _ => ⟨rfl, rfl⟩) h
  case h_8 hop => exact encode_of_withData (opcode hop) (decodeController_encode f.ch f.t) h
  case h_9 hop =>
    split at h
    case isTrue => cases h
    case isFalse hd1 =>
      cases h
      refine ⟨?_, rfl⟩
      rw [encode, byteOf_low7 _ (Bool.eq_false_iff.mpr hd1), eventWord, ← opcode hop]
  case h_11 => cases h

/-- A patch-port word whose must-be-0 bits are 0 is the word of its fields (R43). -/
theorem patchWord_eq_of_zeros {w : PatchWord} (h : w.extractLsb' 88 7 = 0#7) :
    patchWord (spaceOf (w.getLsbD 103)) (w.extractLsb' 96 7) (w.getLsbD 95) (w.extractLsb' 0 88) = .patch w := by
  simp only [patchWord, spaceBit_of, ofBool_getLsbD, ← h]
  iterate 4 rw [BitVec.extractLsb'_append_extractLsb'_eq_extractLsb' (by rfl)]
  rw [BitVec.extractLsb'_eq_self]

theorem decode_patch_eq (w : PatchWord) : decode (.patch w) =
    if w.extractLsb' 88 7 = 0#7 ∧ recordZeros (w.extractLsb' 0 88) = true then
      .ok (.patchWr (spaceOf (w.getLsbD 103)) (w.extractLsb' 96 7) (w.getLsbD 95) (unpack (w.extractLsb' 0 88)))
    else .error .patchBits := by
  simp only [decode, decodePatch, Bool.and_eq_true, beq_iff_eq]

/-- Settles O3: a command word is joined from the fields it decodes by, a patch-port word from its own. -/
theorem encodeDecode : Obligations.EncodeDecode := by
  intro w i h
  cases w with
  | command w =>
    have hword := encode_of_decodeFields (f := splitCommand w) h
    rwa [join_split] at hword
  | patch w =>
    rw [decode_patch_eq] at h
    split at h
    case isTrue hlegal =>
      obtain ⟨hzeros, hrec⟩ := hlegal
      cases h
      refine ⟨?_, rfl⟩
      rw [encode, pack_unpack hrec, patchWord_eq_of_zeros hzeros]
    case isFalse => cases h

end Sys2Proof
end

section
/-! PROOFS. The reserved words (30_encoding.md R86) and what the host dispatches (47_host_scheduler.md R290). -/

namespace Sys2Proof

/-- The fields of a reserved command word (R86 a, b, c). -/
theorem decodeFields_isError {f : CommandFields} : (∃ r, decodeFields f = .error r) ↔
    f.op.toNat ∈ [0x0, 0x6, 0x7, 0xA, 0xD, 0xF] ∨
    (f.op.toNat ∈ [0x8, 0x9, 0xB, 0xE] ∧ (f.d1.getLsbD 7 = true ∨ f.d2.getLsbD 7 = true)) ∨
    (f.op.toNat = 0xC ∧ f.d1.getLsbD 7 = true) ∨
    (f.op.toNat ∈ [0x1, 0x2] ∧ ¬ (f.ch = 0#4 ∧ f.d1 = 0#8 ∧ f.d2 = 0#8)) ∨
    (f.op.toNat ∈ [0x3, 0x4] ∧ f.ch ≠ 0#4) ∨
    (f.op.toNat = 0x5 ∧ ¬ (f.ch = 0#4 ∧ f.d1 = 0#8 ∧ f.d2.extractLsb' 2 6 = 0#6)) := by
  -- The cases are the opcodes of R75 in order: 0x1 to 0x5, 0x8, 0x9, 0xB, 0xC, 0xE, and those that name no command.
  unfold decodeFields
  split
  case h_1 hop | h_2 hop | h_3 hop | h_4 hop | h_5 hop =>
    simp [hop, withZeros_isError, ← Bool.not_eq_true, and_assoc]
  case h_6 hop | h_7 hop | h_8 hop | h_10 hop =>
    simp only [hop, withData_isError]
    simp
  case h_9 hop =>
    simp only [hop]
    cases f.d1.getLsbD 7 <;> simp
  case h_11 =>
    have hlt := f.op.isLt
    have hop : f.op.toNat ∈ [0x0, 0x6, 0x7, 0xA, 0xD, 0xF] := by
      simp only [List.mem_cons, List.not_mem_nil, or_false]
      grind
    exact ⟨fun _ => .inl hop, fun _ => ⟨_, rfl⟩⟩

/-- The must-be-0 bits of ALL_STOP and CH_RESET as fields (R81, R82). -/
theorem systemImm_eq_zero (w : CommandWord) : w.extractLsb' 0 20 = 0#20 ↔
    w.extractLsb' 16 4 = 0#4 ∧ w.extractLsb' 8 8 = 0#8 ∧ w.extractLsb' 0 8 = 0#8 := by
  simp only [← BitVec.toNat_inj, extract_toNat_eq, BitVec.toNat_ofNat]
  omega

/-- The must-be-0 bits of BANK_CLR as fields (R85). -/
theorem bankClrZeros_eq_zero (w : CommandWord) : w.extractLsb' 2 18 = 0#18 ↔
    w.extractLsb' 16 4 = 0#4 ∧ w.extractLsb' 8 8 = 0#8 ∧ (w.extractLsb' 0 8).extractLsb' 2 6 = 0#6 := by
  simp only [← BitVec.toNat_inj, extract_toNat_eq, BitVec.toNat_ofNat]
  omega

theorem decode_command_isError (w : CommandWord) : (∃ r, decode (.command w) = .error r) ↔
    let op := (w.extractLsb' 20 4).toNat
    op ∈ [0x0, 0x6, 0x7, 0xA, 0xD, 0xF] ∨
    (op ∈ [0x8, 0x9, 0xB, 0xE] ∧ (w.getLsbD 15 = true ∨ w.getLsbD 7 = true)) ∨
    (op = 0xC ∧ w.getLsbD 15 = true) ∨
    (op ∈ [0x1, 0x2] ∧ w.extractLsb' 0 20 ≠ 0#20) ∨
    (op ∈ [0x3, 0x4] ∧ w.extractLsb' 16 4 ≠ 0#4) ∨
    (op = 0x5 ∧ w.extractLsb' 2 18 ≠ 0#18) := by
  have hd1 : (w.extractLsb' 8 8).getLsbD 7 = w.getLsbD 15 := BitVec.getLsbD_extractLsb' ..
  have hd2 : (w.extractLsb' 0 8).getLsbD 7 = w.getLsbD 7 := BitVec.getLsbD_extractLsb' ..
  rw [Ne, systemImm_eq_zero, Ne, Ne, bankClrZeros_eq_zero, ← hd1, ← hd2]
  exact decodeFields_isError

theorem decode_patch_isError (w : PatchWord) : (∃ r, decode (.patch w) = .error r) ↔
    w.extractLsb' 88 7 ≠ 0#7 ∨ w.extractLsb' 34 6 ≠ 0#6 ∨ w.extractLsb' 74 6 ≠ 0#6 ∨ w.extractLsb' 84 4 ≠ 0#4 := by
  have legal_iff : (w.extractLsb' 88 7 = 0#7 ∧ recordZeros (w.extractLsb' 0 88) = true) ↔
      w.extractLsb' 88 7 = 0#7 ∧ w.extractLsb' 34 6 = 0#6 ∧ w.extractLsb' 74 6 = 0#6 ∧ w.extractLsb' 84 4 = 0#4 := by
    rw [recordZeros_eq_true]
    iterate 3 rw [extract_extract (by omega)]
  simp only [ne_eq, ← not_and_or, ← legal_iff, decode_patch_eq]
  split
  case isTrue hlegal => simp [hlegal]
  case isFalse hreserved => simp [hreserved]

end Sys2Proof

namespace Sys2Proof.Machine

/-- A waiting reserved word refuses the step (R86). -/
theorem step_of_decode_error {s : State} {w : PortWord} {rest : List PortWord} {r : Reserved}
    (hport : s.port = w :: rest) (hdecode : decode w = .error r) : step s = .refused (.reserved r) := by
  simp only [step, State.fetch_of_port hport, hdecode]

/-- The command of an event with a play-time field (R75, R290). -/
def Event.command (e : Event) (t : TimeField) : Instr :=
  match e.kind with
  | .noteOff => .noteOff e.ch (low7 e.d1) (low7 e.d2) t
  | .noteOn => .noteOn e.ch (low7 e.d1) (low7 e.d2) t
  | .controlChange => decodeController e.ch t (low7 e.d1) (low7 e.d2)
  | .programChange => .progChange e.ch (low7 e.d1) e.d2 t
  | .pitchBend => .pitchBend e.ch (low7 e.d1) (low7 e.d2) t

/-- The word of an event in its fields' range decodes to the command of its type (R73, R79, R290). -/
theorem Event.decode_eventWord_of_legal {e : Event} (h : e.legal) (t : TimeField) :
    decode (eventWord t (eventOpcode e.kind) e.ch e.d1 e.d2) = .ok (e.command t) := by
  obtain ⟨time, kind, ch, d1, d2⟩ := e
  obtain ⟨hd1, hd2⟩ := h
  rw [decode_eventWord]
  cases kind with
  | programChange => exact if_neg (Bool.eq_false_iff.mp hd1)
  | noteOff | noteOn | controlChange | pitchBend =>
    have hd2 := hd2.resolve_left nofun
    simp only [decodeFields, eventOpcode, BitVec.reduceToNat]
    exact withData_eq_ok.mpr ⟨hd1, hd2, rfl⟩

/-- Settles O4: the words of each port by the fields their decoder tests, the step by what it decodes, and an event's
word by its type. -/
theorem reservedWords : Obligations.ReservedWords := by
  refine ⟨decode_command_isError, decode_patch_isError, fun _ _ _ _ => step_of_decode_error, ?_⟩
  intro now anchor e w hlegal hdispatch
  obtain ⟨t, -, rfl⟩ := dispatchEvent_eq_some.mp hdispatch
  exact ⟨_, Event.decode_eventWord_of_legal hlegal t⟩

end Sys2Proof.Machine
end

section
/-! PROOFS. MVOL (30_encoding.md R88, 46_system_commands.md R263), and words written out from the encoding tables. -/

namespace Sys2Proof.Machine

/-- A change that keeps both overlays keeps every entry. -/
theorem State.sameMemory_of_eq {s s' : State} (hmel : s'.pmMel = s.pmMel) (hperc : s'.pmPerc = s.pmPerc) :
    s.SameMemory s' := by
  intro sp i
  cases sp with
  | melodic => exact congrArg (Memory.read · i) hmel
  | percussion => exact congrArg (Memory.read · i) hperc

/-- The clamp of R88 over the rationals. -/
theorem masterVolume_eq (vol16 : BitVec 16) : masterVolume vol16 = min (vol16.toNat : Rat) 0x8000 / 0x8000 := by
  rw [masterVolume, Nat.cast_min]
  rfl

theorem exec_mvol (vol16 : BitVec 16) (t : TimeField) (s : State) :
    exec (.mvol vol16 t) s = .next { s with mvol := masterVolume vol16 } := rfl

/-- Settles O1: each word is decoded as written. -/
theorem decodesWrittenWords : Obligations.DecodesWrittenWords :=
  ⟨rfl, rfl, rfl, rfl, rfl, rfl, rfl, rfl, rfl, rfl, rfl, rfl⟩

/-- Settles O49: the clamp, and the one field that MVOL writes. -/
theorem Mvol.masterVolume : Obligations.MasterVolume := fun s vol16 t =>
  ⟨_, exec_mvol vol16 t s, masterVolume_eq vol16, State.sameMemory_of_eq rfl rfl, rfl⟩

end Sys2Proof.Machine
end

section
/-! PROOFS. Patch selection (40_patch_select.md R100 to R103): which entry getPatch takes, what the search over the
percussion notes has found below each note, and which patch each kind of channel selects. -/

namespace Sys2Proof.Machine

/-! ## By program (R100) -/

theorem State.getPatch_of_invalid {s : State} {prog : Data7} (h : (s.pmMel.read prog.toNat).valid = false) :
    s.getPatch prog = (Config.builtinMel prog).getD Config.genericPatch := by
  rw [State.getPatch, h]
  cases Config.builtinMel prog <;> rfl

/-- Settles O31: an invalid entry falls through to the built-in table. -/
theorem melodicSelection : Obligations.MelodicSelection := by
  refine fun s prog => ⟨fun hvalid => ?_, State.getPatch_of_invalid⟩
  exact State.getPatch_of_valid (congrArg (PatchEntry.mk · _) hvalid)

/-! ## The nearest valid note (R102) -/

/-- `k` is the valid note below `n` that is nearest to `note`, the lower of two at equal distance (R102). -/
structure IsNearestBelow (m : Memory) (note n k : Nat) : Prop where
  lt : k < n
  valid : (m.read k).valid = true
  nearest : ∀ j < n, (m.read j).valid = true →
    noteDistance k note ≤ noteDistance j note ∧ (noteDistance k note = noteDistance j note → k ≤ j)

/-- The invariant of the search: its best so far is right for the notes below `n`. -/
def SearchedBelow (m : Memory) (note n : Nat) : Option Nat → Prop
  | none => ∀ j < n, (m.read j).valid = false
  | some k => IsNearestBelow m note n k

section
variable {m : Memory} {note n k : Nat}

/-- The first valid note is the nearest so far. -/
theorem IsNearestBelow.of_first (hnone : ∀ j < n, (m.read j).valid = false) (hn : (m.read n).valid = true) :
    IsNearestBelow m note (n + 1) n where
  lt := n.lt_succ_self
  valid := hn
  nearest := by
    refine Nat.forall_lt_succ_right.mpr ⟨fun j hj hjv => ?_, fun _ => ⟨le_rfl, fun _ => le_rfl⟩⟩
    rw [hnone j hj] at hjv
    contradiction

/-- A strictly nearer note takes the place of the best so far. -/
theorem IsNearestBelow.replace (h : IsNearestBelow m note n k) (hn : (m.read n).valid = true)
    (hnear : noteDistance n note < noteDistance k note) : IsNearestBelow m note (n + 1) n where
  lt := n.lt_succ_self
  valid := hn
  nearest := by
    refine Nat.forall_lt_succ_right.mpr ⟨fun j hj hjv => ?_, fun _ => ⟨le_rfl, fun _ => le_rfl⟩⟩
    have hkj := (h.nearest j hj hjv).1
    exact ⟨by omega, by omega⟩

/-- The best so far stays when the next note is invalid or no nearer: at equal distance it is the lower one. -/
theorem IsNearestBelow.keep (h : IsNearestBelow m note n k)
    (hfar : (m.read n).valid = true → noteDistance k note ≤ noteDistance n note) :
    IsNearestBelow m note (n + 1) k where
  lt := h.lt.trans n.lt_succ_self
  valid := h.valid
  nearest := Nat.forall_lt_succ_right.mpr ⟨h.nearest, fun hn => ⟨hfar hn, fun _ => h.lt.le⟩⟩

theorem SearchedBelow.step {best : Option Nat} (h : SearchedBelow m note n best) :
    SearchedBelow m note (n + 1) (nearerNote m note best n) := by
  unfold nearerNote
  cases hn : (m.read n).valid with
  | false =>
    cases best with
    | none => exact Nat.forall_lt_succ_right.mpr ⟨h, hn⟩
    | some k => exact IsNearestBelow.keep h (by simp [hn])
  | true =>
    cases best with
    | none => exact IsNearestBelow.of_first h hn
    | some k =>
      by_cases hnear : noteDistance n note < noteDistance k note
      · simpa [hnear, SearchedBelow] using IsNearestBelow.replace h hn hnear
      · simpa [hnear, SearchedBelow] using IsNearestBelow.keep h fun _ => not_lt.mp hnear

end

theorem searchedBelow_foldl (m : Memory) (note n : Nat) :
    SearchedBelow m note n ((List.range n).foldl (nearerNote m note) none) := by
  induction n with
  | zero => exact fun _ hj => absurd hj (Nat.not_lt_zero _)
  | succ n ih =>
    rw [List.range_succ, List.foldl_append]
    exact ih.step

/-- Where some note is valid, the search finds the nearest one. -/
theorem exists_nearestNote {m : Memory} {j : Nat} (note : Nat) (hj : j < 128) (hvalid : (m.read j).valid = true) :
    ∃ k, nearestNote m note = some k ∧ IsNearestBelow m note 128 k := by
  have hsearch : SearchedBelow m note 128 (nearestNote m note) := searchedBelow_foldl m note 128
  cases hbest : nearestNote m note with
  | none =>
    rw [hbest] at hsearch
    simp [hsearch j hj] at hvalid
  | some k => exact ⟨k, rfl, by rwa [hbest] at hsearch⟩

/-! ## The percussion channel and the others (R101, R103) -/

theorem State.percussionLoaded_eq_true {s : State} :
    s.percussionLoaded = true ↔ ∃ k, k < 128 ∧ (s.pmPerc.read k).valid = true := by
  simp [State.percussionLoaded]

section
variable {s : State} {note prog : Data7}

theorem State.getPercussionPatch_of_empty (h : ¬ ∃ k, k < 128 ∧ (s.pmPerc.read k).valid = true) :
    s.getPercussionPatch note prog = s.getPatch prog :=
  if_neg (State.percussionLoaded_eq_true.not.mpr h)

theorem State.getPercussionPatch_of_valid (h : (s.pmPerc.read note.toNat).valid = true) :
    s.getPercussionPatch note prog = (s.pmPerc.read note.toNat).patch := by
  rw [State.getPercussionPatch, if_pos (State.percussionLoaded_eq_true.mpr ⟨_, note.isLt, h⟩), if_pos h]

theorem State.getPercussionPatch_of_nearest {k : Nat} (hk : k < 128) (hvalid : (s.pmPerc.read k).valid = true)
    (hnote : (s.pmPerc.read note.toNat).valid ≠ true) (hnear : nearestNote s.pmPerc note.toNat = some k) :
    s.getPercussionPatch note prog = (s.pmPerc.read k).patch := by
  rw [State.getPercussionPatch, if_pos (State.percussionLoaded_eq_true.mpr ⟨k, hk, hvalid⟩), if_neg hnote, hnear]

end

theorem State.selectPatch_of_ne {s : State} {ch : Chan} (h : ch ≠ s.par.percCh) (note : Data7) :
    s.selectPatch ch note = s.getPatch (s.chan ch).prog := if_neg h

theorem State.selectPatch_of_eq {s : State} {ch : Chan} (h : ch = s.par.percCh) (note : Data7) :
    s.selectPatch ch note = s.getPercussionPatch note (s.chan ch).prog := if_pos h

/-- Settles O32: by the channel, then by what the percussion memory holds. -/
theorem percussionSelection : Obligations.PercussionSelection := by
  intro s ch note valid dist
  refine ⟨fun hch => State.selectPatch_of_ne hch note, fun hch hempty => ?empty, fun hch hnote => ?exact,
    fun hch ⟨j, hj, hjv⟩ hnote => ?nearest⟩
  case empty =>
    exact (State.selectPatch_of_eq hch note).trans (State.getPercussionPatch_of_empty (not_exists.mpr hempty))
  case exact =>
    exact (State.selectPatch_of_eq hch note).trans (State.getPercussionPatch_of_valid hnote.2)
  case nearest =>
    obtain ⟨k, hsearch, hk⟩ := exists_nearestNote note.toNat hj hjv
    refine ⟨k, ⟨hk.lt, hk.valid⟩, fun i hi => hk.nearest i hi.1 hi.2, ?_⟩
    have hnote' : (s.pmPerc.read note.toNat).valid ≠ true := fun h => hnote ⟨note.isLt, h⟩
    exact (State.selectPatch_of_eq hch note).trans (State.getPercussionPatch_of_nearest hk.lt hk.valid hnote' hsearch)

end Sys2Proof.Machine
end

section
/-! PROOFS. The Parameter Translator (41_param_translator.md R121 to R130) over the exact reals: each function denotes
the rule's formula, the curves fall with their field, key-scaling only attenuates and only speeds up, and a new voice
carries these values (44_note_commands.md R187). -/

namespace Sys2Proof.Machine

/-! ## Rates (R121 to R123) -/

theorem attackSeconds_of_ne {rate : BitVec 4} (h : rate ≠ 0#4) :
    attackSeconds rate = (2826 / 1000) / 2 ^ (rate.toNat - 1) := if_neg h

/-- From rate 1 on, a larger rate halves the attack at least once more, and all of them are below the 10 s of
rate 0. -/
theorem attackSeconds_lt_of_lt {a b : BitVec 4} (hab : a < b) : attackSeconds b < attackSeconds a := by
  have hb : b ≠ 0#4 := by bv_omega
  rw [attackSeconds_of_ne hb]
  by_cases ha : a = 0#4
  · calc (2826 / 1000 : Rat) / 2 ^ (b.toNat - 1) ≤ 2826 / 1000 :=
          div_le_self (by norm_num) (one_le_pow₀ one_le_two)
      _ < 10 := by norm_num
      _ = attackSeconds a := (if_pos ha).symm
  · rw [attackSeconds_of_ne ha]
    have hexp : a.toNat - 1 < b.toNat - 1 := by bv_omega
    exact div_lt_div_of_pos_left (by norm_num) (by positivity) (pow_lt_pow_right₀ one_lt_two hexp)

theorem attackSeconds_cast (rate : BitVec 4) : (attackSeconds rate : ℝ) = realAttackSeconds rate := by
  unfold attackSeconds realAttackSeconds
  split <;> norm_num

theorem decaySeconds_cast (rate : BitVec 4) : (decaySeconds rate : ℝ) = realDecaySeconds rate := by
  unfold decaySeconds realDecaySeconds
  split <;> norm_num

/-! ## Levels (R124, R125) -/

theorem value_sustainLevel (F : OpenFunctions) (field : BitVec 4) :
    (sustainLevel field).value F = realSustainLevel field := by
  unfold sustainLevel realSustainLevel
  split_ifs <;> norm_num

theorem value_totalLevel (F : OpenFunctions) (field : BitVec 6) :
    (totalLevel field).value F = realTotalLevel field := by
  unfold totalLevel realTotalLevel
  split_ifs <;> norm_num

/-- Attenuation by a fixed number of dB per step falls with every step. -/
theorem attenuation_strictAnti {db : ℝ} (hdb : 0 < db) : StrictAnti fun n : ℕ => (10 : ℝ) ^ (-db * n / 20) := by
  intro m n hmn
  have hcast : (m : ℝ) < n := Nat.cast_lt.mpr hmn
  exact Real.rpow_lt_rpow_of_exponent_lt (by norm_num) (by nlinarith)

/-- The formula of R124 also gives the value at 0. -/
theorem realSustainLevel_of_ne {field : BitVec 4} (h : field ≠ 15#4) :
    realSustainLevel field = (10 : ℝ) ^ (-3 * (field.toNat : ℝ) / 20) := by
  by_cases h0 : field = 0#4
  · simp [realSustainLevel, h0]
  · simp [realSustainLevel, h0, h]

/-- The formula of R125 also gives the value at 0. -/
theorem realTotalLevel_of_ne {field : BitVec 6} (h : field ≠ 63#6) :
    realTotalLevel field = (10 : ℝ) ^ (-0.75 * (field.toNat : ℝ) / 20) := by
  by_cases h0 : field = 0#6
  · simp [realTotalLevel, h0]
  · simp [realTotalLevel, h0, h]

/-- The silence floor lies below 60 dB of attenuation, and no field below 15 attenuates by more than 42 dB. -/
theorem silenceFloor_lt_realSustainLevel {field : BitVec 4} (h : field ≠ 15#4) :
    0.00002 < realSustainLevel field := by
  have hlt : field.toNat < 20 := by omega
  calc (0.00002 : ℝ) < 10 ^ (-3 * ((20 : ℕ) : ℝ) / 20) := by
        rw [show -3 * ((20 : ℕ) : ℝ) / 20 = ((-3 : ℤ) : ℝ) by norm_num, Real.rpow_intCast]
        norm_num
    _ < 10 ^ (-3 * (field.toNat : ℝ) / 20) := attenuation_strictAnti three_pos hlt
    _ = realSustainLevel field := (realSustainLevel_of_ne h).symm

theorem realSustainLevel_lt_of_lt {a b : BitVec 4} (hab : a < b) : realSustainLevel b < realSustainLevel a := by
  have ha : a ≠ 15#4 := by bv_omega
  by_cases hb : b = 15#4
  · subst hb
    exact silenceFloor_lt_realSustainLevel ha
  · rw [realSustainLevel_of_ne ha, realSustainLevel_of_ne hb]
    exact attenuation_strictAnti three_pos hab

theorem realTotalLevel_lt_of_lt {a b : BitVec 6} (hab : a < b) (hb : b < 63#6) :
    realTotalLevel b < realTotalLevel a := by
  rw [realTotalLevel_of_ne (by bv_omega), realTotalLevel_of_ne (by bv_omega)]
  exact attenuation_strictAnti (by norm_num) hab

/-- The oddity of U10. Field 62 attenuates by 46.5 dB, so its 40th power is `10 ^ (-93)`, below `0.005 ^ 40`. -/
theorem realTotalLevel_62_lt : realTotalLevel 62#6 < 0.005 := by
  have hroot : ((10 : ℝ) ^ (-0.75 * (62 : ℝ) / 20)) ^ 40 = 10 ^ (-93 : ℤ) := by
    rw [← Real.rpow_mul_natCast (by norm_num), ← Real.rpow_intCast]
    norm_num
  rw [realTotalLevel_of_ne (by decide)]
  refine lt_of_pow_lt_pow_left₀ 40 (by norm_num) (hroot.trans_lt ?_)
  norm_num

/-- Settles O33: the level curves over the reals, where the attenuation of each step is strict. -/
theorem translatorCurves : Obligations.TranslatorCurves := by
  intro F
  simp only [value_sustainLevel, value_totalLevel]
  exact ⟨fun _ _ => attackSeconds_lt_of_lt, rfl, rfl, rfl,
    fun _ _ => realSustainLevel_lt_of_lt, rfl, rfl, fun _ _ => realTotalLevel_lt_of_lt,
    realTotalLevel_62_lt⟩

/-! ## Key-scaling (R128 to R130) -/

theorem kslDb_cast (k : BitVec 2) : (kslDb k : ℝ) = realKslDb k := by
  obtain rfl | rfl | rfl | rfl : k = 0#2 ∨ k = 1#2 ∨ k = 2#2 ∨ k = 3#2 := by bv_omega
  · simp [kslDb, realKslDb]
  · simp [kslDb, realKslDb]
  · change ((3 / 2 : Rat) : ℝ) = 1.5
    norm_num
  · simp [kslDb, realKslDb]

theorem realKslDb_nonneg (k : BitVec 2) : 0 ≤ realKslDb k := by
  unfold realKslDb
  split_ifs <;> norm_num

theorem value_keyScaleLevel (F : OpenFunctions) (ref : Nat) (k : BitVec 2) (note : Data7) :
    (keyScaleLevel ref k note).value F = realKeyScaleLevel ref k note := by
  simp [keyScaleLevel, octavesAbove, realKeyScaleLevel, kslDb_cast]

theorem realKeyScaleLevel_pos (ref : Nat) (k : BitVec 2) (note : Data7) : 0 < realKeyScaleLevel ref k note :=
  Real.rpow_pos_of_pos (by norm_num) _

theorem realKeyScaleLevel_le_one (ref : Nat) (k : BitVec 2) (note : Data7) : realKeyScaleLevel ref k note ≤ 1 := by
  have hatt : 0 ≤ realKslDb k * max 0 (((note.toNat : ℝ) - ref) / 12) :=
    mul_nonneg (realKslDb_nonneg k) (le_max_left _ _)
  exact Real.rpow_le_one_of_one_le_of_nonpos (by norm_num) (by linarith)

theorem realKeyScaleLevel_eq_one {ref : Nat} {k : BitVec 2} {note : Data7} (h : k = 0#2 ∨ note.toNat ≤ ref) :
    realKeyScaleLevel ref k note = 1 := by
  obtain rfl | hnote := h
  · simp [realKeyScaleLevel, realKslDb]
  · have hcast : (note.toNat : ℝ) ≤ ref := Nat.cast_le.mpr hnote
    have hoctaves : ((note.toNat : ℝ) - ref) / 12 ≤ 0 := by linarith
    simp [realKeyScaleLevel, max_eq_left hoctaves]

/-- The exponent's subtraction stops at 0, as the rule's `max` does. -/
theorem keyScaleExponent_true_cast (note : Data7) :
    (keyScaleExponent true note : ℝ) = max 0 ((note.toNat : ℝ) - 36) := by
  change ((note.toNat - 36 : ℕ) : ℝ) = _
  rcases le_total note.toNat 36 with h | h
  · have hcast : (note.toNat : ℝ) - 36 ≤ 0 := sub_nonpos.mpr (by exact_mod_cast h)
    rw [Nat.sub_eq_zero_of_le h, max_eq_left hcast, Nat.cast_zero]
  · have hcast : 0 ≤ (note.toNat : ℝ) - 36 := sub_nonneg.mpr (by exact_mod_cast h)
    rw [Nat.cast_sub h, Nat.cast_ofNat, max_eq_right hcast]

/-- One power of two serves both flags: with the flag clear its exponent is 0. -/
theorem realKeyScaleRate_eq (ksr : Bool) (note : Data7) :
    realKeyScaleRate ksr note = (2 : ℝ) ^ ((keyScaleExponent ksr note : ℝ) / 24) := by
  cases ksr with
  | false => simp [realKeyScaleRate, keyScaleExponent]
  | true => simp [realKeyScaleRate, keyScaleExponent_true_cast]

theorem value_keyScaleRate (F : OpenFunctions) (ksr : Bool) (note : Data7) :
    (keyScaleRate ksr note).value F = realKeyScaleRate ksr note := by
  cases ksr with
  | false => simp [keyScaleRate, realKeyScaleRate]
  | true => simp [keyScaleRate, realKeyScaleRate_eq]

theorem one_le_realKeyScaleRate (ksr : Bool) (note : Data7) : 1 ≤ realKeyScaleRate ksr note := by
  rw [realKeyScaleRate_eq]
  exact Real.one_le_rpow one_le_two (by positivity)

/-- Settles O34: the two formulas over the reals, bounded by the signs of their exponents. -/
theorem keyScaling : Obligations.KeyScaling := by
  intro F ref k ksr note
  rw [value_keyScaleLevel, value_keyScaleRate, value_keyScaleRate]
  exact ⟨rfl, realKeyScaleLevel_pos ref k note, realKeyScaleLevel_le_one ref k note, realKeyScaleLevel_eq_one, rfl,
    one_le_realKeyScaleRate ksr note, rfl⟩

theorem value_keyScaled (F : OpenFunctions) (seconds : Rat) (ksr : Bool) (note : Data7) :
    (keyScaled seconds ksr note).term.value F = seconds / realKeyScaleRate ksr note := by
  rw [Dur.value_term, realKeyScaleRate_eq]
  rfl

/-! ## The operators of a new voice (R126, R127, R187) -/

theorem multiplier_cast (mult : BitVec 4) :
    (multiplier mult : ℝ) = if mult = 0#4 then 0.5 else (mult.toNat : ℝ) := by
  unfold multiplier
  split <;> norm_num

theorem value_noteFrequency (F : OpenFunctions) (note : Data7) :
    (noteFrequency note).value F = 440 * (2 : ℝ) ^ (((note.toNat : ℝ) - 69) / 12) := by
  simp [noteFrequency]

theorem buildOp_follows (F : OpenFunctions) (p : Params) (o : Operator) (fb : BitVec 3) (note : Data7)
    (factor : RTerm) : (buildOp p o fb note factor).Follows F o fb note where
  f := by simp only [buildOp, RTerm.value_mul, RTerm.value_rat, value_noteFrequency, multiplier_cast, realFrequency]
  ws := rfl
  fb := rfl
  attack := by simp only [buildOp, value_keyScaled, attackSeconds_cast]
  decay := by simp only [buildOp, value_keyScaled, decaySeconds_cast]
  release := by simp only [buildOp, value_keyScaled, releaseSeconds, decaySeconds_cast]
  sustain := value_sustainLevel F o.sl
  flags := ⟨rfl, rfl, rfl⟩

/-- Settles O26: both operators of a voice are built by the one rule, the carrier without feedback. -/
theorem voiceConstants : Obligations.VoiceConstants := fun F p _ k _ _ P =>
  ⟨buildOp_follows F p P.m P.fb k.note _, buildOp_follows F p P.c 0#3 k.note _⟩

end Sys2Proof.Machine
end

section
/-! PROOFS. The base shapes (42_waveform.md R141), over the exact reals: each is the rule's formula, so it takes no value
but the sine, its absolute value and 0. -/

namespace Sys2Proof.Machine

/-! ## The operations of the exact reals -/

section
variable (F : OpenFunctions)

@[simp] theorem Numerics.exact_ofRat (q : Rat) : (Numerics.exact F).ofRat q = (q : ℝ) := rfl

@[simp] theorem Numerics.exact_mul (x y : ℝ) : (Numerics.exact F).mul x y = x * y := rfl

@[simp] theorem Numerics.exact_div (x y : ℝ) : (Numerics.exact F).div x y = x / y := rfl

@[simp] theorem Numerics.exact_floor (x : ℝ) : (Numerics.exact F).floor x = ⌊x⌋ := rfl

@[simp] theorem Numerics.exact_lt (x y : ℝ) : (Numerics.exact F).lt x y = decide (x < y) := rfl

@[simp] theorem Numerics.exact_frac (x : ℝ) : (Numerics.exact F).frac x = Int.fract x := by
  change x - ((⌊x⌋ : Rat) : ℝ) = x - ⌊x⌋
  rw [Rat.cast_intCast]

@[simp] theorem Numerics.exact_abs (x : ℝ) : (Numerics.exact F).abs x = |x| := by
  simp only [Numerics.abs, exact_lt, exact_ofRat, Rat.cast_zero, decide_eq_true_iff]
  split
  · next hneg => exact (abs_of_neg hneg).symm
  · next hnonneg => exact (abs_of_nonneg (not_lt.mp hnonneg)).symm

@[simp] theorem Numerics.exact_sineOf (p : ℝ) : (Numerics.exact F).sineOf p = Real.sin (2 * Real.pi * p) := by
  change Real.sin (((2 : Rat) : ℝ) * Real.pi * p) = _
  rw [Rat.cast_ofNat]

/-! ## The four shapes (R141) -/

theorem Numerics.shape_sine (p : ℝ) : (Numerics.exact F).shape 0#2 p = Real.sin (2 * Real.pi * p) := by
  simp [Numerics.shape]

theorem Numerics.shape_halfSine (p : ℝ) :
    (Numerics.exact F).shape 1#2 p = if p < 1 / 2 then Real.sin (2 * Real.pi * p) else 0 := by
  simp [Numerics.shape]

theorem Numerics.shape_rectified (p : ℝ) : (Numerics.exact F).shape 2#2 p = |Real.sin (2 * Real.pi * p)| := by
  simp [Numerics.shape]

theorem Numerics.shape_quarterSine (p : ℝ) :
    (Numerics.exact F).shape 3#2 p = if Int.fract (2 * p) < 1 / 2 then |Real.sin (2 * Real.pi * p)| else 0 := by
  simp [Numerics.shape]

end

theorem shapeId_cases : ∀ s : BitVec 2, s = 0#2 ∨ s = 1#2 ∨ s = 2#2 ∨ s = 3#2 := by decide

/-- The two halving shapes choose between a value of the others and 0. -/
theorem Numerics.shape_cases (F : OpenFunctions) (s : BitVec 2) (p : ℝ) :
    (Numerics.exact F).shape s p = Real.sin (2 * Real.pi * p) ∨
    (Numerics.exact F).shape s p = |Real.sin (2 * Real.pi * p)| ∨ (Numerics.exact F).shape s p = 0 := by
  obtain rfl | rfl | rfl | rfl := shapeId_cases s
  · exact .inl (shape_sine F p)
  · rw [shape_halfSine]
    split
    · exact .inl rfl
    · exact .inr (.inr rfl)
  · exact .inr (.inl (shape_rectified F p))
  · rw [shape_quarterSine]
    split
    · exact .inr (.inl rfl)
    · exact .inr (.inr rfl)

/-! ## Their values -/

/-- At every real phase, not only within one cycle. -/
theorem Numerics.abs_shape_le_one (F : OpenFunctions) (s : BitVec 2) (p : ℝ) : |(Numerics.exact F).shape s p| ≤ 1 := by
  have hsine : |Real.sin (2 * Real.pi * p)| ≤ 1 := Real.abs_sin_le_one _
  obtain h | h | h := shape_cases F s p
  · rwa [h]
  · rwa [h, abs_abs]
  · rw [h, abs_zero]
    exact zero_le_one

/-- The first half of the cycle is the sine's positive half. -/
theorem sin_cycle_nonneg {p : ℝ} (h0 : 0 ≤ p) (hhalf : p < 1 / 2) : 0 ≤ Real.sin (2 * Real.pi * p) := by
  have hpi : 0 < Real.pi := Real.pi_pos
  have hphase : 2 * Real.pi * p ≤ Real.pi := by nlinarith
  exact Real.sin_nonneg_of_nonneg_of_le_pi (by positivity) hphase

theorem Numerics.shape_nonneg (F : OpenFunctions) {s : BitVec 2} {p : ℝ} (hs : s ≠ 0#2) (h0 : 0 ≤ p) :
    0 ≤ (Numerics.exact F).shape s p := by
  obtain rfl | rfl | rfl | rfl := shapeId_cases s
  · exact absurd rfl hs
  · rw [shape_halfSine]
    split
    · next hhalf => exact sin_cycle_nonneg h0 hhalf
    · exact le_rfl
  · rw [shape_rectified]
    exact abs_nonneg _
  · rw [shape_quarterSine]
    split
    · exact abs_nonneg _
    · exact le_rfl

/-- Settles O35: the formula of each shape, and the bounds that follow from the sine's. -/
theorem shapesBounded : Obligations.ShapesBounded := by
  intro F p h0 _
  refine ⟨Numerics.shape_sine F p, Numerics.shape_halfSine F p, Numerics.shape_rectified F p,
    Numerics.shape_quarterSine F p, fun s => ?_⟩
  obtain ⟨hlow, hhigh⟩ := abs_le.mp (Numerics.abs_shape_le_one F s p)
  exact ⟨hlow, hhigh, fun hs => Numerics.shape_nonneg F hs h0⟩

end Sys2Proof.Machine
end

section
/-! PROOFS. The waveform tables and their lookup (42_waveform.md R143 to R151), over the exact reals. Every sample is a
value of the base shape, whatever the history it was built from; a feedback build is told by its recurrence, by its two
first samples and by what one cycle hands to the next. -/

namespace Sys2Proof.Machine

section
variable (F : OpenFunctions) (n : Nat) (s : BitVec 2) (fb : BitVec 3)

/-! ## One cycle of the feedback build (R144) -/

/-- The first sample is fed the history, the second its predecessor and the newer half of the history. -/
theorem Numerics.fbCycle_range_first (hn : 1 < n) (y1 y2 : ℝ) :
    let N := Numerics.exact F
    let z : Nat → ℝ := fun k => (N.fbCycle n s fb (List.range n) y1 y2).1.getD k 0
    z 0 = N.fbSample n s fb 0 y1 y2 ∧ z 1 = N.fbSample n s fb 1 (z 0) y1 := by
  obtain ⟨rest, hrange⟩ : ∃ rest, List.range n = 0 :: 1 :: rest := by
    obtain ⟨m, rfl⟩ := Nat.exists_eq_add_of_le' hn
    exact ⟨_, by rw [List.range_succ_eq_map, List.range_succ_eq_map]; rfl⟩
  rw [hrange]
  exact ⟨rfl, rfl⟩

/-- A cycle of at least two samples forgets the history before it: it hands on its own two last samples. -/
theorem Numerics.fbCycle_carry {ks : List Nat} (hks : 1 < ks.length) (y1 y2 : ℝ) :
    let r := (Numerics.exact F).fbCycle n s fb ks y1 y2
    r.2 = (r.1.getD (ks.length - 1) 0, r.1.getD (ks.length - 2) 0) := by
  intro r
  have hlast : r.2 = _ := fbCycle_last F n s fb ks y1 y2
  have hlen : r.1.length = ks.length := fbCycle_length F n s fb ks y1 y2
  obtain ⟨x, y, rest, hrev⟩ : ∃ x y rest, r.1.reverse = x :: y :: rest := by
    have htwo : 1 < r.1.reverse.length := by rwa [List.length_reverse, hlen]
    match r.1.reverse, htwo with
    | x :: y :: rest, _ => exact ⟨x, y, rest, rfl⟩
  have hsplit : r.1 = rest.reverse ++ [y, x] := by simpa using congrArg List.reverse hrev
  rw [hrev] at hlast
  rw [← hlen, hsplit, hlast]
  simp

theorem Numerics.fbCycle_mem {ks : List Nat} {y1 y2 y : ℝ}
    (h : y ∈ ((Numerics.exact F).fbCycle n s fb ks y1 y2).1) : ∃ p, y = (Numerics.exact F).shape s p := by
  induction ks generalizing y1 y2 with
  | nil => cases h
  | cons k ks ih =>
    obtain hfirst | hrest := List.mem_cons.mp h
    · exact ⟨_, hfirst⟩
    · exact ih hrest

/-! ## The kept cycle (R145) -/

/-- One priming cycle more: the build goes on from the two last samples of the cycle before. -/
theorem Numerics.fbKept_succ (hn : 1 < n) (c : Nat) (y1 y2 : ℝ) :
    let N := Numerics.exact F
    let y : Nat → ℝ := fun k => (N.fbKept n s fb c y1 y2).getD k 0
    N.fbKept n s fb (c + 1) y1 y2 = (N.fbCycle n s fb (List.range n) (y (n - 1)) (y (n - 2))).1 := by
  induction c generalizing y1 y2 with
  | zero =>
    have hcarry := fbCycle_carry F n s fb (ks := List.range n) (by simpa using hn) y1 y2
    simp only [List.length_range] at hcarry
    simp only [Numerics.fbKept, hcarry]
  | succ c ih => exact ih _ _

/-! ## The table (R150) -/

theorem Numerics.waveTable_without_feedback (c : Nat) :
    (Numerics.exact F).waveTable n c s 0#3 =
      (List.range n).map fun (k : Nat) => (Numerics.exact F).shape s ((k : ℝ) / n) := by
  simp [Numerics.waveTable]

theorem Numerics.waveTable_with_feedback {fb : BitVec 3} (hfb : fb ≠ 0#3) (c : Nat) :
    (Numerics.exact F).waveTable n c s fb = (Numerics.exact F).fbKept n s fb c 0 0 := by
  simp [Numerics.waveTable, hfb]

/-- A feedback table is one cycle over all sample numbers, from some history. -/
theorem Numerics.waveTable_eq_fbCycle {fb : BitVec 3} (hfb : fb ≠ 0#3) (c : Nat) : ∃ z1 z2,
    (Numerics.exact F).waveTable n c s fb = ((Numerics.exact F).fbCycle n s fb (List.range n) z1 z2).1 := by
  rw [waveTable_with_feedback F n s hfb c]
  exact fbKept_eq_fbCycle F n s fb c 0 0

theorem Numerics.waveTable_length (c : Nat) : ((Numerics.exact F).waveTable n c s fb).length = n := by
  by_cases hfb : fb = 0#3
  · rw [hfb, waveTable_without_feedback, List.length_map, List.length_range]
  · obtain ⟨z1, z2, h⟩ := waveTable_eq_fbCycle F n s hfb c
    rw [h, fbCycle_length, List.length_range]

/-- Feedback moves the phase at which the shape is sampled, and nothing else. -/
theorem Numerics.waveTable_mem {c : Nat} {y : ℝ} (h : y ∈ (Numerics.exact F).waveTable n c s fb) :
    ∃ p, y = (Numerics.exact F).shape s p := by
  by_cases hfb : fb = 0#3
  · rw [hfb, waveTable_without_feedback] at h
    obtain ⟨k, -, rfl⟩ := List.mem_map.mp h
    exact ⟨_, rfl⟩
  · obtain ⟨z1, z2, htable⟩ := waveTable_eq_fbCycle F n s hfb c
    exact fbCycle_mem F n s fb (htable ▸ h)

end

/-- Settles O37: the recurrence is that of one cycle; a first cycle starts from silence, a later one from the cycle
before it. -/
theorem waveTables : Obligations.WaveTables := by
  intro F n c s fb
  refine ⟨fun hfb k hk => ?_, fun hfb k hk => ?_, fun hfb hc hn => ?_, fun hfb hn => ?_⟩
  · subst hfb
    simp [Numerics.waveTable_without_feedback, hk]
  · obtain ⟨z1, z2, htable⟩ := Numerics.waveTable_eq_fbCycle F n s hfb c
    have hstep := Numerics.fbCycle_step F n s fb (List.range n) z1 z2 k (by simpa using hk)
    simpa only [htable, List.getElem_range, Numerics.exact_fbSample] using hstep
  · subst hc
    have hfirst := Numerics.fbCycle_range_first F n s fb hn 0 0
    simpa [Numerics.waveTable_with_feedback F n s hfb, Numerics.fbKept, Numerics.exact_fbSample] using hfirst
  · have hfirst := Numerics.fbCycle_range_first F n s fb hn
    simpa [Numerics.waveTable_with_feedback F n s hfb, Numerics.fbKept_succ F n s fb hn c,
      Numerics.exact_fbSample] using hfirst _ _

/-! ## The lookup (R151) -/

theorem Numerics.waveIndex_eq (F : OpenFunctions) (n : Nat) (ph : ℝ) :
    (Numerics.exact F).waveIndex n ph = ⌊Int.fract ph * n⌋.toNat := by
  simp [Numerics.waveIndex]

/-- A fractional part is below 1, so the truncated index is below the table's length. -/
theorem waveIndex_lt {n : Nat} (hn : 0 < n) (ph : ℝ) : ⌊Int.fract ph * n⌋.toNat < n := by
  have hpos : (0 : ℝ) < n := Nat.cast_pos.mpr hn
  have hlt : Int.fract ph * n < n := mul_lt_of_lt_one_left hpos (Int.fract_lt_one ph)
  have hfloor : ⌊Int.fract ph * n⌋ < (n : ℤ) := Int.floor_lt.mpr (by exact_mod_cast hlt)
  omega

theorem Numerics.getElem?_waveIndex (F : OpenFunctions) {n : Nat} (hn : 0 < n) (c : Nat) (s : BitVec 2) (fb : BitVec 3)
    (ph : ℝ) : ((Numerics.exact F).waveTable n c s fb)[⌊Int.fract ph * n⌋.toNat]? =
      some ((Numerics.exact F).wave n c s fb ph) := by
  have hlt : ⌊Int.fract ph * n⌋.toNat < ((Numerics.exact F).waveTable n c s fb).length := by
    rw [waveTable_length]
    exact waveIndex_lt hn ph
  rw [Numerics.wave, waveIndex_eq, List.getD_eq_getElem _ _ hlt, List.getElem?_eq_getElem hlt]

theorem Numerics.wave_add_one (F : OpenFunctions) (n c : Nat) (s : BitVec 2) (fb : BitVec 3) (ph : ℝ) :
    (Numerics.exact F).wave n c s fb (ph + 1) = (Numerics.exact F).wave n c s fb ph := by
  simp only [Numerics.wave, waveIndex_eq, Int.fract_add_one]

/-- Settles O36: a fractional part is below 1 and the same in every cycle, and a sample is a value of the shape. -/
theorem waveLookup : Obligations.WaveLookup := by
  intro F n c s fb ph hn
  have hsample := Numerics.getElem?_waveIndex F hn c s fb ph
  obtain ⟨p, hp⟩ := Numerics.waveTable_mem F n s fb (List.mem_of_getElem? hsample)
  obtain ⟨hlow, hhigh⟩ := abs_le.mp (Numerics.abs_shape_le_one F s p)
  rw [← hp] at hlow hhigh
  exact ⟨Numerics.waveTable_length F n s fb c, waveIndex_lt hn ph, hsample, Numerics.wave_add_one F n c s fb ph, hlow,
    hhigh⟩

end Sys2Proof.Machine
end

section
/-! PROOFS. The channel commands (43_channel_commands.md R160 to R173): the detune of a voice before and after a
re-target, what each command writes, and the frame that all nine share. -/

namespace Sys2Proof.Machine

/-! ## The detune of a re-targeted voice (R172, R222) -/

theorem Voice.retargeted_of_le {v : Voice} {t : Rat} (cents : Rat) (h : t ≤ v.t0) :
    v.retargeted t cents = { v with bend := [(v.t0, cents)] } := if_pos h

theorem Voice.retargeted_of_lt {v : Voice} {t : Rat} (cents : Rat) (h : v.t0 < t) :
    v.retargeted t cents = { v with bend := v.bend.filter (fun b => decide (b.1 < t)) ++ [(t, cents)] } :=
  if_neg (not_le.mpr h)

/-- A breakpoint at the end of the list is the one in force from its time on (R222). -/
theorem Voice.bendAt_of_last {v : Voice} {before : List (Rat × Rat)} {t u cents : Rat}
    (hbend : v.bend = before ++ [(t, cents)]) (h : t ≤ u) : v.bendAt u = cents := by
  simp [Voice.bendAt, hbend, h]

/-- The breakpoints from `t` on play no part before `t`, so that replacing them changes no earlier detune. -/
theorem Voice.bendAt_of_replaced {v w : Voice} {t u cents : Rat}
    (hbend : w.bend = v.bend.filter (fun b => decide (b.1 < t)) ++ [(t, cents)]) (h : u < t) :
    w.bendAt u = v.bendAt u := by
  have hearlier (b : Rat × Rat) : (decide (b.1 ≤ u) && decide (b.1 < t)) = decide (b.1 ≤ u) := by
    simpa using fun hb : b.1 ≤ u => hb.trans_lt h
  have hinForce : w.bend.filter (fun b => decide (b.1 ≤ u)) = v.bend.filter (fun b => decide (b.1 ≤ u)) := by
    simp [hbend, List.filter_append, List.filter_filter, hearlier, not_le.mpr h]
  rw [Voice.bendAt, Voice.bendAt, hinForce]

/-- Settles O17: a voice that starts at or after `t` has the new detune throughout; in an older one, `t` parts the old
breakpoints from the new one. -/
theorem retargetDetune : Obligations.RetargetDetune := by
  intro v t cents hok
  refine ⟨Voice.retargeted_bendOk t cents hok, fun u hu => ?_⟩
  rcases le_or_gt t v.t0 with hbefore | hafter
  · rw [if_neg fun h => not_lt.mpr hbefore h.1, Voice.retargeted_of_le cents hbefore]
    exact Voice.bendAt_of_last (before := []) rfl hu
  · rw [Voice.retargeted_of_lt cents hafter]
    rcases lt_or_ge u t with hold | hnew
    · rw [if_pos ⟨hafter, hold⟩]
      exact Voice.bendAt_of_replaced rfl hold
    · rw [if_neg fun h => not_lt.mpr hnew h.2]
      exact Voice.bendAt_of_last rfl hnew

/-! ## The two forms of change to a channel -/

theorem State.setChan_channelWritten (s : State) (c : Chan) (x : Channel) : s.ChannelWritten (s.setChan c x) c x :=
  ⟨s.chan_setChan_self c x, fun _ hd => s.chan_setChan_ne x hd, State.sameMemory_of_eq rfl rfl, rfl⟩

/-- A re-target changes the registry and nothing else (R173). -/
theorem State.retarget_eq (s : State) (c : Chan) (t cents : Rat) :
    s.retarget c t cents = { s with vt := (s.retarget c t cents).vt } := by
  unfold State.retarget
  split <;> rfl

theorem State.retarget_vt (s : State) (c : Chan) (t cents : Rat) :
    (s.retarget c t cents).vt = if t < s.clk then s.vt else s.vt.map (·.retargetedOn c t cents) := by
  split
  · rename_i hlate
    rw [State.retarget_late hlate]
  · rename_i honTime
    rw [State.retarget_eq_map (not_lt.mp honTime)]

@[simp] theorem State.chan_retarget (s : State) (c d : Chan) (t cents : Rat) :
    (s.retarget c t cents).chan d = s.chan d := by
  simp [State.chan]

theorem State.retarget_channelRetuned (s : State) (c : Chan) (x : Channel) (t cents : Rat) :
    s.ChannelRetuned ((s.setChan c x).retarget c t cents) c x t cents := by
  refine ⟨by simp, fun d hd => ?_, State.sameMemory_of_eq (by simp) (by simp), ?_, State.retarget_vt _ c t cents⟩
  · rw [State.chan_retarget, State.chan_setChan_ne s x hd]
  · rw [State.retarget_eq]
    rfl

/-! ## What each command writes -/

/-- Settles O12: each of the three is one channel write. -/
theorem controllerWrites : Obligations.ControllerWrites := fun s ch _ _ =>
  ⟨⟨_, rfl, s.setChan_channelWritten ch _⟩, ⟨_, rfl, s.setChan_channelWritten ch _⟩,
    ⟨_, rfl, s.setChan_channelWritten ch _⟩⟩

/-- Settles O13: the command is one channel write. -/
theorem programWrite : Obligations.ProgramWrite := fun s ch _ _ _ => ⟨_, rfl, s.setChan_channelWritten ch _⟩

/-- Settles O14: the three commands answer the state they are given. -/
theorem loopMarkersAndOthersAreNops : Obligations.LoopMarkersAndOthersAreNops := fun _ _ _ _ _ => ⟨rfl, rfl, rfl⟩

/-- The value of `v14 = {d2[6:0], d1[6:0]}` (R87). -/
theorem bendValue_toNat (lsb msb : Data7) : (bendValue lsb msb).toNat = 128 * msb.toNat + lsb.toNat := by
  rw [bendValue, toNat_append_eq]
  omega

theorem bendCents_bendValue (p : Params) (lsb msb : Data7) : bendCents p (bendValue lsb msb) =
    ((128 * msb.toNat + lsb.toNat : Nat) - 8192 : Rat) * p.pbRangeCents / 8192 := by
  rw [bendCents, bendValue_toNat]

/-- Settles O15: a channel write and a re-target, with the cents of R87. -/
theorem pitchBendWrites : Obligations.PitchBendWrites := by
  intro s ch lsb msb t
  rw [← bendCents_bendValue]
  exact ⟨_, rfl, s.retarget_channelRetuned ch _ _ _⟩

/-- Settles O16: a channel write and a re-target to 0 cents. -/
theorem controllerReset : Obligations.ControllerReset := fun s ch _ t =>
  ⟨_, rfl, s.retarget_channelRetuned ch (resetControllers s.par (s.chan ch)) (playTime t) 0⟩

/-! ## The frame of all nine (R160, R173) -/

/-- What a command on channel `c` may do to a registry voice: change its breakpoints, if the voice is of the channel. -/
def Voice.SameButBend (c : Chan) (v v' : Voice) : Prop :=
  v' = { v with bend := v'.bend } ∧ (v.key.ch ≠ c → v' = v)

theorem Voice.SameButBend.refl (c : Chan) (v : Voice) : Voice.SameButBend c v v := ⟨rfl, fun _ => rfl⟩

theorem Voice.retargetedOn_sameButBend (c : Chan) (t cents : Rat) (v : Voice) :
    Voice.SameButBend c v (v.retargetedOn c t cents) :=
  ⟨v.retargetedOn_eq c t cents, fun hother => if_neg hother⟩

/-- What every command on channel `c` leaves unchanged (R173). -/
def State.ChannelFrame (s s' : State) (c : Chan) : Prop :=
  (∀ d, d ≠ c → s'.chan d = s.chan d) ∧ s.SameMemory s' ∧ s' = { s with ch := s'.ch, vt := s'.vt } ∧
    List.Forall₂ (Voice.SameButBend c) s.vt s'.vt

theorem State.ChannelFrame.refl (s : State) (c : Chan) : s.ChannelFrame s c :=
  ⟨fun _ _ => rfl, fun _ _ => rfl, rfl, List.forall₂_same.mpr fun v _ => .refl c v⟩

theorem State.ChannelWritten.frame {s s' : State} {c : Chan} {x : Channel} (h : s.ChannelWritten s' c x) :
    s.ChannelFrame s' c := by
  obtain ⟨-, hothers, hmem, hrest⟩ := h
  have hvt : s'.vt = s.vt := by rw [hrest]
  refine ⟨hothers, hmem, ?_, ?_⟩
  · rw [hvt]
    exact hrest
  · rw [hvt]
    exact List.forall₂_same.mpr fun v _ => .refl c v

theorem State.ChannelRetuned.frame {s s' : State} {c : Chan} {x : Channel} {t cents : Rat}
    (h : s.ChannelRetuned s' c x t cents) : s.ChannelFrame s' c := by
  obtain ⟨-, hothers, hmem, hrest, hvt⟩ := h
  refine ⟨hothers, hmem, hrest, ?_⟩
  rw [hvt]
  split
  · exact List.forall₂_same.mpr fun v _ => .refl c v
  · exact List.forall₂_map_right_iff.mpr (List.forall₂_same.mpr fun v _ => v.retargetedOn_sameButBend c t cents)

/-- Settles O18: each of the nine changes nothing, is one channel write, or is a channel write and a re-target. -/
theorem channelCommandsFrame : Obligations.ChannelCommandsFrame := by
  intro i c s hi
  suffices h : ∃ s', exec i s = .next s' ∧ s.ChannelFrame s' c from h
  cases i with
  | ccVolume ch val t =>
    cases hi
    exact ⟨_, rfl, (s.setChan_channelWritten c _).frame⟩
  | ccPan ch val t =>
    cases hi
    exact ⟨_, rfl, (s.setChan_channelWritten c _).frame⟩
  | ccExpr ch val t =>
    cases hi
    exact ⟨_, rfl, (s.setChan_channelWritten c _).frame⟩
  | ccReset ch val t =>
    cases hi
    exact ⟨_, rfl, (s.retarget_channelRetuned c _ _ _).frame⟩
  | ccLoopStart ch val t => exact ⟨s, rfl, .refl s c⟩
  | ccLoopEnd ch val t => exact ⟨s, rfl, .refl s c⟩
  | ccOther ch cc val t => exact ⟨s, rfl, .refl s c⟩
  | progChange ch prog d2 t =>
    cases hi
    exact ⟨_, rfl, (s.setChan_channelWritten c _).frame⟩
  | pitchBend ch lsb msb t =>
    cases hi
    exact ⟨_, rfl, (s.retarget_channelRetuned c _ _ _).frame⟩
  | _ => cases hi

end Sys2Proof.Machine
end

section
/-! PROOFS. Voices as NOTE_ON builds them and `hardStop` leaves them (44_note_commands.md R185 to R191): the fields of
a new voice, its peak levels and its auto-stop over the exact reals, and the fade of a hard-stopped voice. -/

namespace Sys2Proof.Machine

/-! ## The levels of a new voice (R188) -/

theorem value_commonFactor (F : OpenFunctions) (c : Channel) (vel : Data7) : (commonFactor c vel).value F =
    (c.vol.toNat : ℝ) / 127 * ((c.expr.toNat : ℝ) / 127) * ((vel.toNat : ℝ) / 127) ^ 2 := by
  simp [commonFactor, volFactor, exprFactor, velFactor, sq]

theorem value_peakLevel (F : OpenFunctions) (p : Params) (o : Operator) (note : Data7) (factor : RTerm) :
    (peakLevel p o note factor).value F =
      realTotalLevel o.tl * realKeyScaleLevel p.kslRefNote o.ksl note * factor.value F := by
  simp only [peakLevel, RTerm.value_mul, value_totalLevel, value_keyScaleLevel]

theorem buildVoice_levelC (p : Params) (c : Channel) (k : Key) (vel : Data7) (t : Rat) (P : Patch) :
    (buildVoice p c k vel t P).opC.level = peakLevel p P.c k.note (commonFactor c vel) := rfl

theorem buildVoice_levelM (p : Params) (c : Channel) (k : Key) (vel : Data7) (t : Rat) (P : Patch) :
    (buildVoice p c k vel t P).opM.level =
      peakLevel p P.m k.note (modulatorFactor P.alg (commonFactor c vel)) := rfl

/-- Settles O27: both levels are one product; the modulator's last factor is 1 where the modulator is not heard. -/
theorem voiceLevels : Obligations.VoiceLevels := by
  intro F p c k vel t P w common
  rw [buildVoice_levelC, buildVoice_levelM, value_peakLevel, value_peakLevel, value_commonFactor]
  refine ⟨rfl, ?_⟩
  cases P.alg with
  | additive => rw [modulatorFactor, value_commonFactor]
  | fm => rw [modulatorFactor, RTerm.value_rat, Rat.cast_one]

/-! ## The auto-stop of a new voice (R191) -/

/-- The phases of one operator share its key-scale exponent, so their values add (R130, R191). -/
theorem OpRun.value_tail (F : OpenFunctions) {o : OpRun} (hok : o.ok) : o.tail.term.value F =
    o.attack.term.value F + o.decay.term.value F + o.release.term.value F := by
  obtain ⟨-, -, -, hAD, hDR⟩ := hok
  have hk : (o.attack.addSame o.decay).k = o.release.k := hAD.trans hDR
  rw [OpRun.tail, Dur.value_addSame F hk, Dur.value_addSame F hAD]

theorem OpRun.value_tail_pos (F : OpenFunctions) {o : OpRun} (hok : o.ok) : 0 < o.tail.term.value F := by
  obtain ⟨hA, hD, hR, -, -⟩ := hok
  exact lt_of_not_ge fun h => not_lt.mpr ((Dur.value_nonpos_iff F o.tail).mp h) (add_pos (add_pos hA hD) hR)

theorem buildVoice_stop (p : Params) (c : Channel) (k : Key) (vel : Data7) (t : Rat) (P : Patch) :
    (buildVoice p c k vel t P).stop =
      autoStop t P.alg (buildVoice p c k vel t P).opM (buildVoice p c k vel t P).opC := rfl

theorem value_autoStop_fm (F : OpenFunctions) (t : Rat) (m c : OpRun) :
    (autoStop t .fm m c).map (fun x => x.term.value F) =
      if c.egt then none else some ((t : ℝ) + c.tail.term.value F) := by
  dsimp only [autoStop]
  split <;> rfl

theorem value_autoStop_additive (F : OpenFunctions) (t : Rat) (m c : OpRun) :
    (autoStop t .additive m c).map (fun x => x.term.value F) =
      if m.egt || c.egt then none else some ((t : ℝ) + max (m.tail.term.value F) (c.tail.term.value F)) := by
  rw [← Dur.value_max]
  dsimp only [autoStop]
  split <;> rfl

/-- An auto-stop comes after the start: the phases of the carrier, which it waits for, are not empty. -/
theorem lt_value_of_autoStop (F : OpenFunctions) {t : Rat} {alg : Algorithm} {m c : OpRun} (hc : c.ok)
    {stop : Moment} (h : autoStop t alg m c = some stop) : (t : ℝ) < stop.term.value F := by
  have htail := OpRun.value_tail_pos F hc
  have hvalue := congrArg (Option.map fun x => x.term.value F) h
  cases alg with
  | fm =>
    rw [value_autoStop_fm, Option.map_some, Option.ite_none_left_eq_some] at hvalue
    obtain ⟨-, hvalue⟩ := hvalue
    exact (lt_add_of_pos_right _ htail).trans_eq (Option.some.inj hvalue)
  | additive =>
    rw [value_autoStop_additive, Option.map_some, Option.ite_none_left_eq_some] at hvalue
    obtain ⟨-, hvalue⟩ := hvalue
    exact (lt_add_of_pos_right _ (lt_max_of_lt_right htail)).trans_eq (Option.some.inj hvalue)

/-- Settles O28: the sounding operators' tails, added phase by phase, and the longer of two over the reals. -/
theorem BuildVoice.autoStop : Obligations.AutoStop := by
  intro F p c k vel t P w tail
  have htailM : w.opM.tail.term.value F = tail w.opM := OpRun.value_tail F (buildOp_ok ..)
  have htailC : w.opC.tail.term.value F = tail w.opC := OpRun.value_tail F (buildOp_ok ..)
  rw [buildVoice_stop, ← htailM, ← htailC]
  cases P.alg with
  | fm => exact value_autoStop_fm F t w.opM w.opC
  | additive => exact value_autoStop_additive F t w.opM w.opC

/-! ## The record of a new voice (R185, R189, R190) -/

/-- Settles O25: the fields as `buildVoice` fills them. -/
theorem voiceRecord : Obligations.VoiceRecord := fun F _ _ _ _ _ _ =>
  have hzero : (RTerm.rat 0).value F = 0 := Rat.cast_zero
  ⟨rfl, rfl, rfl, rfl, rfl, rfl, rfl, rfl, hzero, hzero⟩

/-! ## Hard-stop (R186) -/

/-- Facts about the model's exact comparisons that name no interpretation can be read off over the reals of any. -/
theorem OpenFunctions.nonempty : Nonempty OpenFunctions := ⟨⟨0, fun _ _ => 0, fun _ => 0⟩⟩

/-- A stop time that has passed stays passed. -/
theorem stoppedBy_mono {stop : Option Moment} {t u : Rat} (htu : t ≤ u) (h : stoppedBy stop t = true) :
    stoppedBy stop u = true := by
  obtain ⟨F⟩ := OpenFunctions.nonempty
  obtain ⟨m, hstop, hle⟩ := (stoppedBy_iff_value_le F stop t).mp h
  exact (stoppedBy_iff_value_le F stop u).mpr ⟨m, hstop, hle.trans (Rat.cast_le.mpr htu)⟩

theorem Moment.value_ofRat (F : OpenFunctions) (q : Rat) : (Moment.ofRat q).term.value F = q := by
  simp [Moment.ofRat, Dur.ofRat]

/-- Over the reals a hard-stopped voice stops at the end of its fade, or at its old stop time where that is earlier. -/
theorem Voice.value_fadeStop (F : OpenFunctions) (p : Params) (v : Voice) (t : Rat) :
    (v.fadeStop p t).term.value F = (v.stop.map fun m => m.term.value F).elim
      ((v.fadeStart t : ℝ) + p.hardStopS) (min ((v.fadeStart t : ℝ) + p.hardStopS)) := by
  have hend : (Moment.ofRat (v.fadeStart t + p.hardStopS)).term.value F = (v.fadeStart t : ℝ) + p.hardStopS := by
    rw [Moment.value_ofRat, Rat.cast_add]
  rcases v.fadeStop_cases p t with ⟨hnew, hlater⟩ | ⟨hold, hbefore⟩
  · rw [hnew, hend]
    cases hstop : v.stop with
    | none => rfl
    | some m =>
      rw [hstop, stoppedBy_some, ← Bool.not_eq_true, Moment.atOrBefore_iff_value_le F, not_le, Rat.cast_add] at hlater
      exact (min_eq_left hlater.le).symm
  · rw [Moment.atOrBefore_iff_value_le F, Rat.cast_add] at hbefore
    rw [hold]
    exact (min_eq_right hbefore).symm

/-- A second hard-stop, not before the fade has been set to start, changes nothing (R186). -/
theorem Voice.hardStoppedTail_of_fading {p : Params} {w : Voice} {h t : Rat} {m : Moment} (hhs : w.hs = some h)
    (hstop : w.stop = some m) (hend : m.atOrBefore (h + p.hardStopS) = true) (ht : h ≤ t) :
    w.hardStoppedTail p t = w := by
  have hstart : w.fadeStart t = h := by rw [Voice.fadeStart_eq, hhs, Option.elim_some, min_eq_right ht]
  have hfade : w.fadeStop p t = m := by simp only [Voice.fadeStop, hstop, hstart, hend, if_true]
  rw [Voice.hardStoppedTail_eq, hstart, hfade, ← hhs, ← hstop, ite_self]

theorem Voice.hardStoppedTail_of_some {p : Params} {t : Rat} {v w : Voice} (h : v.hardStopped p t = some w) :
    v.hardStoppedTail p t = w := by
  rw [Voice.hardStoppedTail, h, Option.getD_some]

theorem Voice.hardStoppedTail_of_none {p : Params} {t : Rat} {v : Voice} (h : v.hardStopped p t = none) :
    v.hardStoppedTail p t = v := by
  rw [Voice.hardStoppedTail, h, Option.getD_none]

/-- Settles O29: the fade of R186 over the reals; a second call finds the fade it would set. -/
theorem hardStopRule : Obligations.HardStopRule := by
  intro F p v t
  refine ⟨?finished, fun w hw => ?stopped, Voice.hardStoppedTail_of_none, fun _ => Voice.hardStoppedTail_of_some,
    fun s w hw => ?joins⟩
  case finished => rw [Voice.hardStopped_eq_none, stoppedBy_iff_value_le F]
  case stopped =>
    obtain ⟨-, rfl⟩ := Voice.hardStopped_eq_some.mp hw
    exact ⟨_, _, rfl, v.fadeStart_eq t, v.value_fadeStop F p t, fun t' ht' =>
      Voice.hardStoppedTail_of_fading rfl rfl (v.fadeStop_atOrBefore p t) ((v.fadeStart_le t).trans ht')⟩
  case joins => rw [State.hardStopInto_tails, Voice.hardStoppedTail_of_some hw]

end Sys2Proof.Machine
end

section
/-! PROOFS. NOTE_ON and NOTE_OFF as changes to the voice tables (44_note_commands.md R180 to R195): when a command is
dropped or is NOTE_OFF, which of the ways of making room a note takes, and what neither command writes. -/

namespace Sys2Proof.Machine

/-! ## What a note command leaves unchanged -/

theorem State.SameButVoices.trans {a b c : State} (hab : a.SameButVoices b) (hbc : b.SameButVoices c) :
    a.SameButVoices c := by
  unfold State.SameButVoices at hab hbc ⊢
  rw [hab] at hbc
  exact hbc

theorem State.SameButVoices.sameMemory {s s' : State} (h : s.SameButVoices s') : s.SameMemory s' := by
  unfold State.SameButVoices at h
  exact State.sameMemory_of_eq (by rw [h]) (by rw [h])

theorem State.retrigger_sameButVoices (s : State) (k : Key) (t : Rat) : s.SameButVoices (s.retrigger k t) := by
  cases hfind : s.findVoice k with
  | none => rw [State.retrigger_of_none hfind]; rfl
  | some v => rw [State.retrigger_of_some hfind]; rfl

theorem State.evict_sameButVoices (s : State) (t : Rat) : s.SameButVoices (s.evict t) := by
  rcases s.evict_cases t with ⟨-, heq⟩ | ⟨v, rest, -, heq⟩
  · rw [heq]; rfl
  · rw [heq]; rfl

theorem State.fetchTable_sameButVoices (s : State) (w : BitVec 2) (fb : BitVec 3) :
    s.SameButVoices (s.fetchTable w fb) := by
  rw [State.fetchTable_eq]
  rfl

/-! ## When a note command is late, or has no velocity (R181, R182) -/

section
variable {s : State} {k : Key} {vel : Data7} {t : Rat}

theorem exec_noteOn (s : State) (ch : Chan) (note vel : Data7) (t : TimeField) :
    exec (.noteOn ch note vel t) s = .next (s.noteOn ⟨ch, note⟩ vel (playTime t)) := rfl

theorem exec_noteOff (s : State) (ch : Chan) (note d2 : Data7) (t : TimeField) :
    exec (.noteOff ch note d2 t) s = .next (s.noteOff ⟨ch, note⟩ (playTime t)) := rfl

theorem State.late_eq_true : s.late t = true ↔ t < s.clk := decide_eq_true_iff

theorem State.noteOff_of_late (h : t < s.clk) : s.noteOff k t = s := if_pos (State.late_eq_true.mpr h)

theorem State.noteOff_of_onTime (h : s.clk ≤ t) : s.noteOff k t = s.purge.releaseKey k t :=
  if_neg (mt State.late_eq_true.mp (not_lt.mpr h))

theorem State.noteOn_of_late (h : t < s.clk) : s.noteOn k vel t = s := if_pos (State.late_eq_true.mpr h)

theorem State.noteOn_of_onTime (h : s.clk ≤ t) (hvel : vel ≠ 0#7) : s.noteOn k vel t = s.allocate k vel t := by
  rw [State.noteOn, if_neg (mt State.late_eq_true.mp (not_lt.mpr h)), if_neg hvel]

/-- Both commands make the late test first, so that it does not part them (R182). -/
theorem State.noteOn_zero (s : State) (k : Key) (t : Rat) : s.noteOn k 0#7 t = s.noteOff k t := by
  rcases lt_or_ge t s.clk with hlate | honTime
  · rw [State.noteOn_of_late hlate, State.noteOff_of_late hlate]
  · rw [State.noteOn, if_neg (mt State.late_eq_true.mp (not_lt.mpr honTime)), if_pos rfl]

theorem exec_noteOn_of_onTime {ch : Chan} {note : Data7} {t : TimeField} (h : s.clk ≤ playTime t)
    (hvel : vel ≠ 0#7) :
    exec (.noteOn ch note vel t) s = .next (s.allocate ⟨ch, note⟩ vel (playTime t)) := by
  rw [exec_noteOn, State.noteOn_of_onTime h hvel]

/-- Settles O20: with velocity 0 the two commands make the same change, and the release velocity is not read. -/
theorem velocityZeroIsNoteOff : Obligations.VelocityZeroIsNoteOff := by
  intro s ch note d2 t
  rw [exec_noteOn, exec_noteOff, State.noteOn_zero]

/-! ## Allocation (R180) -/

/-- The voice that an allocation appends (R180 step 8): the patch and the channel are read as the state has them. -/
def State.newVoice (s : State) (k : Key) (vel : Data7) (t : Rat) : Voice :=
  buildVoice s.par (s.chan k.ch) k vel t (s.selectPatch k.ch k.note)

/-- The state after steps 4 to 6 of NOTE_ON (R180), which take voices out of the registry. -/
def State.roomMade (s : State) (k : Key) (t : Rat) : State := (s.purge.retrigger k t).evict t

theorem State.roomMade_sameButVoices (s : State) (k : Key) (t : Rat) : s.SameButVoices (s.roomMade k t) :=
  have hpurge : s.SameButVoices s.purge := rfl
  (hpurge.trans (s.purge.retrigger_sameButVoices k t)).trans (State.evict_sameButVoices _ t)

theorem State.purge_selectPatch (s : State) (ch : Chan) (note : Data7) :
    s.purge.selectPatch ch note = s.selectPatch ch note := rfl

/-- Steps 4 to 8 of NOTE_ON (R180): room, the tables of the patch, the new voice. -/
theorem State.allocate_eq (s : State) (k : Key) (vel : Data7) (t : Rat) :
    let P := s.selectPatch k.ch k.note
    let r := ((s.roomMade k t).fetchTable P.m.ws P.fb).fetchTable P.c.ws 0#3
    s.allocate k vel t = { r with vt := r.vt ++ [s.newVoice k vel t] } := rfl

theorem State.allocate_vt (s : State) (k : Key) (vel : Data7) (t : Rat) :
    (s.allocate k vel t).vt = (s.roomMade k t).vt ++ [s.newVoice k vel t] := by
  simp only [State.allocate_eq, State.fetchTable_vt]

theorem State.allocate_tails (s : State) (k : Key) (vel : Data7) (t : Rat) :
    (s.allocate k vel t).tails = (s.roomMade k t).tails := by
  simp only [State.allocate_eq, State.fetchTable_tails]

theorem State.mem_allocate_wtc {key : WtKey} : key ∈ (s.allocate k vel t).wtc ↔
    key ∈ s.wtc ∨ key = ⟨s.dev, (s.selectPatch k.ch k.note).m.ws, (s.selectPatch k.ch k.note).fb⟩ ∨
      key = ⟨s.dev, (s.selectPatch k.ch k.note).c.ws, 0#3⟩ := by
  simp only [State.allocate_eq, State.mem_fetchTable, State.fetchTable_dev, State.roomMade, State.evict_wtc,
    State.evict_dev, State.retrigger_wtc, State.retrigger_dev, State.purge_wtc, State.purge_dev, or_assoc]

theorem State.allocate_sameButVoices (s : State) (k : Key) (vel : Data7) (t : Rat) :
    s.SameButVoices (s.allocate k vel t) := by
  let P := s.selectPatch k.ch k.note
  have hmodulator := (s.roomMade_sameButVoices k t).trans (State.fetchTable_sameButVoices _ P.m.ws P.fb)
  have hcarrier := hmodulator.trans (State.fetchTable_sameButVoices _ P.c.ws 0#3)
  exact hcarrier.trans rfl

/-- Settles O19: on time, the voice appended last is the note's. -/
theorem lateNotesDropped : Obligations.LateNotesDropped := by
  intro s ch note d2 t
  refine ⟨fun hlate => ⟨?_, ?_⟩, fun honTime hvel => ⟨_, s.newVoice ⟨ch, note⟩ d2 (playTime t),
    exec_noteOn_of_onTime honTime.ge hvel, ?_, rfl, honTime⟩⟩
  · rw [exec_noteOn, State.noteOn_of_late hlate]
  · rw [exec_noteOff, State.noteOff_of_late hlate]
  · rw [State.allocate_vt, List.getLast?_concat]

/-! ## The three ways of making room (R180 steps 5 and 6) -/

/-- The registry holds the key: its voice leaves, and what it leaves behind is room enough (R194). -/
theorem State.roomMade_of_held {v : Voice} (hlen : s.vt.length ≤ Config.voiceLimit)
    (hfind : s.purge.findVoice k = some v) :
    (s.roomMade k t).vt = s.purge.vt.eraseP (fun u => u.key = k) ∧
      (s.roomMade k t).tails = s.purge.tails ++ [v.hardStoppedTail s.par t] := by
  obtain ⟨hmem, hkey⟩ := State.findVoice_some hfind
  have hshorter : (s.purge.vt.eraseP fun u => u.key = k).length < s.vt.length :=
    calc (s.purge.vt.eraseP fun u => u.key = k).length
      _ = s.purge.vt.length - 1 := List.length_eraseP_of_mem hmem (decide_eq_true hkey)
      _ < s.purge.vt.length := Nat.sub_lt (List.length_pos_of_mem hmem) one_pos
      _ ≤ s.vt.length := List.length_filter_le _ _
  rw [State.roomMade, State.retrigger_of_some hfind, State.evict_of_room (hshorter.trans_le hlen)]
  exact ⟨rfl, rfl⟩

/-- The registry is full and has not the key: its first voice leaves (R195). -/
theorem State.roomMade_of_full {v : Voice} {rest : List Voice} (hfind : s.purge.findVoice k = none)
    (hvt : s.purge.vt = v :: rest) (hfull : s.purge.vt.length = Config.voiceLimit) :
    (s.roomMade k t).vt = rest ∧ (s.roomMade k t).tails = s.purge.tails ++ [v.hardStoppedTail s.par t] := by
  rw [State.roomMade, State.retrigger_of_none hfind, State.evict_of_full hvt hfull.ge]
  exact ⟨rfl, rfl⟩

/-- The registry has room and has not the key: no voice leaves. -/
theorem State.roomMade_of_room (hfind : s.purge.findVoice k = none) (hroom : s.purge.vt.length < Config.voiceLimit) :
    s.roomMade k t = s.purge := by
  rw [State.roomMade, State.retrigger_of_none hfind, State.evict_of_room hroom]

end

/-- Settles O21: the frame is that of an allocation, and the tables follow from the way in which room was made. -/
theorem noteOnAllocates : Obligations.NoteOnAllocates := by
  intro s ch note vel t hlen honTime hvel T P isKey w live old
  have hfindVoice : live.find? isKey = s.purge.findVoice ⟨ch, note⟩ := rfl
  refine ⟨_, exec_noteOn_of_onTime honTime hvel, (s.allocate_sameButVoices _ _ _).sameMemory,
    s.allocate_sameButVoices _ _ _, fun k => State.mem_allocate_wtc, ?_⟩
  rw [State.allocate_vt, State.allocate_tails, hfindVoice]
  cases hfind : s.purge.findVoice ⟨ch, note⟩ with
  | some v =>
    obtain ⟨hvt, htails⟩ := State.roomMade_of_held (t := T) hlen hfind
    exact ⟨congrArg (· ++ [w]) hvt, htails⟩
  | none =>
    dsimp only
    split
    · rename_i hfull
      obtain ⟨v, rest, hcons⟩ := List.exists_cons_of_length_eq_add_one hfull
      obtain ⟨hvt, htails⟩ := State.roomMade_of_full (t := T) hfind hcons hfull
      rw [hcons]
      exact ⟨congrArg (· ++ [w]) hvt, htails⟩
    · rename_i hnotFull
      have hroom : s.purge.vt.length < Config.voiceLimit :=
        lt_of_le_of_ne ((List.length_filter_le _ _).trans hlen) hnotFull
      rw [State.roomMade_of_room hfind hroom]
      exact ⟨rfl, rfl⟩

/-! ## Release (R192, R193) -/

/-- Settles O24: the release of the registry voice, its stop time over the reals. -/
theorem noteOffReleases : Obligations.NoteOffReleases := by
  intro s ch note d2 t honTime isKey live old
  have hfindVoice : live.find? isKey = s.purge.findVoice ⟨ch, note⟩ := rfl
  rw [exec_noteOff, State.noteOff_of_onTime honTime, hfindVoice]
  cases hfind : s.purge.findVoice ⟨ch, note⟩ with
  | none =>
    rw [State.releaseKey_of_none hfind]
    exact ⟨_, rfl, State.sameMemory_of_eq rfl rfl, rfl, rfl, rfl⟩
  | some v =>
    rw [State.releaseKey_of_some hfind]
    refine ⟨_, rfl, State.sameMemory_of_eq rfl rfl, rfl, rfl, _, rfl, fun F => ?_⟩
    rw [Moment.value_term, Dur.value_max, Rat.cast_add, State.purge_par]
    ring

end Sys2Proof.Machine
end

section
/-! PROOFS. Re-trigger and eviction (44_note_commands.md R194 to R196): what becomes of the prior voice of a key, and the
registry after a run of notes on distinct keys. -/

namespace Sys2Proof.Machine

/-! ## Re-trigger (R194) -/

/-- The keys of the registry are distinct, so that it finds each of its voices by its key (R21). -/
theorem State.findVoice_of_mem {s : State} {v : Voice} (hkeys : (s.vt.map Voice.key).Nodup) (hv : v ∈ s.vt) :
    s.findVoice v.key = some v := by
  cases hfind : s.findVoice v.key with
  | none => exact absurd rfl (State.findVoice_none.mp hfind v hv)
  | some u =>
    obtain ⟨hu, hkey⟩ := State.findVoice_some hfind
    rw [List.inj_on_of_nodup_map hkeys hu hv hkey]

/-- With distinct keys, taking out the first voice of a key takes out every voice of it. -/
theorem eraseP_key_eq_filter {vt : List Voice} (hkeys : (vt.map Voice.key).Nodup) (k : Key) :
    vt.eraseP (fun v => v.key = k) = vt.filter fun v => v.key ≠ k := by
  induction vt with
  | nil => rfl
  | cons v rest ih =>
    obtain ⟨hv, hrest⟩ := List.nodup_cons.mp hkeys
    by_cases hk : v.key = k
    · have hothers : ∀ u ∈ rest, u.key ≠ k := fun u hu h => hv (hk.trans h.symm ▸ List.mem_map_of_mem hu)
      rw [List.eraseP_cons_of_pos (by simpa), List.filter_cons_of_neg (by simpa), List.filter_eq_self.mpr (by simpa)]
    · rw [List.eraseP_cons_of_neg (by simpa), List.filter_cons_of_pos (by simpa), ih hrest]

theorem State.purge_keys_nodup {s : State} (hkeys : (s.vt.map Voice.key).Nodup) : (s.purge.vt.map Voice.key).Nodup :=
  hkeys.sublist (List.filter_sublist.map _)

/-- Settles O22: the purge leaves the unfinished voice, which is found by its key and hard-stopped. -/
theorem retriggerHardStops : Obligations.RetriggerHardStops := by
  intro s ch note vel t v hlen hkeys hv hkey hhs hunfinished honTime hvel
  have hsounding : stoppedBy v.stop s.clk = false :=
    Bool.eq_false_iff.mpr fun h => Bool.eq_false_iff.mp hunfinished (stoppedBy_mono honTime h)
  have hfind : s.purge.findVoice ⟨ch, note⟩ = some v :=
    hkey ▸ State.findVoice_of_mem (State.purge_keys_nodup hkeys) (State.mem_purge_vt.mpr ⟨hv, hsounding⟩)
  obtain ⟨hvt, htails⟩ := State.roomMade_of_held (t := playTime t) hlen hfind
  have hstart : v.fadeStart (playTime t) = playTime t := by rw [Voice.fadeStart_eq, hhs, Option.elim_none]
  have hend := v.fadeStop_atOrBefore s.par (playTime t)
  have hcases := v.fadeStop_cases s.par (playTime t)
  rw [hstart] at hend hcases
  refine ⟨_, s.newVoice ⟨ch, note⟩ vel (playTime t), v.fadeStop s.par (playTime t),
    exec_noteOn_of_onTime honTime hvel, ?_, rfl, rfl, ?_, hcases.symm.imp And.left And.left, hend⟩
  · rw [State.allocate_vt, hvt, eraseP_key_eq_filter (State.purge_keys_nodup hkeys), State.purge_vt,
      List.filter_filter]
    simp only [Bool.and_comm]
  · rw [State.allocate_tails, htails, Voice.hardStoppedTail_eq, hunfinished, if_neg Bool.false_ne_true, hstart]
    rfl

/-! ## The last of a list -/

/-- To keep the last `n` at every step is to keep the last `n` at the end. -/
theorem rtake_rtake_append {α : Type} (xs ys : List α) (n : Nat) :
    (xs.rtake n ++ ys).rtake n = (xs ++ ys).rtake n := by
  have hdrop : xs.rtake n ++ ys = (xs ++ ys).drop (xs.length - n) :=
    (List.drop_append_of_le_length (Nat.sub_le _ _)).symm
  rw [hdrop, List.rtake, List.rtake, List.drop_drop, List.length_drop, List.length_append]
  congr 1
  omega

theorem rtake_of_length_le {α : Type} {xs : List α} {n : Nat} (h : xs.length ≤ n) : xs.rtake n = xs := by
  rw [List.rtake, Nat.sub_eq_zero_of_le h, List.drop_zero]

theorem map_rtake {α β : Type} (f : α → β) (xs : List α) (n : Nat) : (xs.rtake n).map f = (xs.map f).rtake n := by
  rw [List.rtake, List.rtake, List.map_drop, List.length_map]

/-! ## A run of notes (R195, R196) -/

/-- The registry is within its capacity (R21), and a purge finds no finished voice in it. -/
structure State.Sounding (s : State) : Prop where
  length_le : s.vt.length ≤ Config.voiceLimit
  unfinished : ∀ v ∈ s.vt, stoppedBy v.stop s.clk = false

section
variable {s : State} {k : Key} {vel : Data7} {t : Rat}

theorem State.Sounding.purge_vt (h : s.Sounding) : s.purge.vt = s.vt :=
  List.filter_eq_self.mpr fun v hv => by rw [h.unfinished v hv, Bool.not_false]

theorem State.allocate_clk (s : State) (k : Key) (vel : Data7) (t : Rat) : (s.allocate k vel t).clk = s.clk :=
  State.clk_congr (s.allocate_par k vel t) (s.allocate_clkN k vel t)

theorem State.newVoice_unfinished (s : State) (k : Key) (vel : Data7) (h : s.clk ≤ t) :
    stoppedBy (s.newVoice k vel t).stop s.clk = false := by
  obtain ⟨F⟩ := OpenFunctions.nonempty
  rw [Bool.eq_false_iff, Ne, stoppedBy_iff_value_le F]
  rintro ⟨m, hstop, hle⟩
  have hstart : (t : ℝ) < m.term.value F := lt_value_of_autoStop F (buildOp_ok ..) hstop
  exact not_lt.mpr (hle.trans (Rat.cast_le.mpr h)) hstart

/-- A note on a new key leaves the last nine of the registry's voices and its own (R195). -/
theorem State.Sounding.allocate_vt (h : s.Sounding) (hkey : ∀ v ∈ s.vt, v.key ≠ k) :
    (s.allocate k vel t).vt = (s.vt ++ [s.newVoice k vel t]).rtake Config.voiceLimit := by
  have hfind : s.purge.findVoice k = none := State.findVoice_none.mpr (h.purge_vt ▸ hkey)
  suffices hroom : (s.roomMade k t).vt = s.vt.rtake 8 by
    rw [State.allocate_vt, hroom]
    exact (List.rtake_concat_succ ..).symm
  rcases h.length_le.lt_or_eq with hroom | hfull
  · rw [State.roomMade_of_room hfind (h.purge_vt ▸ hroom), h.purge_vt, rtake_of_length_le (Nat.le_of_lt_succ hroom)]
  · obtain ⟨v, rest, hvt⟩ := List.exists_cons_of_length_eq_add_one hfull
    have hdrop : s.vt.rtake 8 = rest := by
      rw [List.rtake, hfull, hvt]
      rfl
    rw [hdrop]
    exact (State.roomMade_of_full hfind (h.purge_vt.trans hvt) (h.purge_vt ▸ hfull)).1

theorem State.Sounding.allocate (h : s.Sounding) (hkey : ∀ v ∈ s.vt, v.key ≠ k) (honTime : s.clk ≤ t) :
    (s.allocate k vel t).Sounding where
  length_le := by
    rw [h.allocate_vt hkey, List.rtake, List.length_drop]
    omega
  unfinished v hv := by
    rw [h.allocate_vt hkey] at hv
    rw [State.allocate_clk]
    rcases List.mem_append.mp (List.mem_of_mem_drop hv) with hv | hv
    · exact h.unfinished v hv
    · rw [List.mem_singleton.mp hv]
      exact s.newVoice_unfinished k vel honTime

theorem State.Sounding.allocate_keys (h : s.Sounding) (hkey : ∀ v ∈ s.vt, v.key ≠ k) :
    (s.allocate k vel t).vt.map Voice.key = (s.vt.map Voice.key ++ [k]).rtake Config.voiceLimit := by
  rw [h.allocate_vt hkey, map_rtake, List.map_append]
  rfl

end

/-- A note on: its key, its velocity, its play-time. -/
abbrev Note := Key × Data7 × TimeField

/-- The command of a note. -/
def Note.command (n : Note) : Instr := .noteOn n.1.ch n.1.note n.2.1 n.2.2

/-- From any sounding registry, a run of notes on new keys leaves the last nine of all the keys. -/
theorem State.Sounding.execAll_notes {s : State} (h : s.Sounding) (notes : List Note)
    (hkeys : (s.vt.map Voice.key ++ notes.map Prod.fst).Nodup)
    (hnotes : ∀ n ∈ notes, n.2.1 ≠ 0#7 ∧ s.clk ≤ playTime n.2.2) :
    ∃ s', execAll (notes.map Note.command) s = .next s' ∧
      s'.vt.map Voice.key = (s.vt.map Voice.key ++ notes.map Prod.fst).rtake Config.voiceLimit := by
  induction notes generalizing s with
  | nil =>
    refine ⟨s, rfl, ?_⟩
    rw [List.map_nil, List.append_nil, rtake_of_length_le ((List.length_map _).trans_le h.length_le)]
  | cons n rest ih =>
    obtain ⟨k, vel, t⟩ := n
    obtain ⟨⟨hvel, honTime⟩, hrest⟩ := List.forall_mem_cons.mp hnotes
    obtain ⟨-, -, hnew⟩ := List.nodup_append.mp hkeys
    have hkey : ∀ v ∈ s.vt, v.key ≠ k := fun v hv => hnew _ (List.mem_map_of_mem hv) _ List.mem_cons_self
    have hsplit : s.vt.map Voice.key ++ ((k, vel, t) :: rest).map Prod.fst =
        s.vt.map Voice.key ++ [k] ++ rest.map Prod.fst := List.append_cons ..
    have hafter := h.allocate_keys (vel := vel) (t := playTime t) hkey
    rw [hsplit] at hkeys ⊢
    obtain ⟨s', hexec, hvt⟩ := ih (h.allocate (vel := vel) hkey honTime)
      (hafter ▸ hkeys.sublist ((List.drop_sublist _ _).append_right _))
      (fun m hm => by rw [State.allocate_clk]; exact hrest m hm)
    refine ⟨s', ?_, ?_⟩
    · rw [List.map_cons, execAll, Note.command, exec_noteOn_of_onTime honTime hvel]
      exact hexec
    · rw [hvt, hafter, rtake_rtake_append]

/-- Settles O23: the empty registry is sounding. -/
theorem fifoEviction : Obligations.FifoEviction := by
  intro s cmds hempty hkeys hcmds
  have hsounding : s.Sounding := ⟨by simp [hempty], by simp [hempty]⟩
  obtain ⟨s', hexec, hvt⟩ := hsounding.execAll_notes cmds (by simpa [hempty] using hkeys) hcmds
  refine ⟨s', hexec, ?_⟩
  rw [hvt, hempty, List.map_nil, List.nil_append, List.rtake, List.length_map]
  rfl

end Sys2Proof.Machine
end

section
/-! PROOFS. The frequency of an operator and its low-frequency modulators (45_audio_path.md R222, R223, R235), over the
exact reals: one equation per term of the rules, and the breakpoint in force at a time. -/

namespace Sys2Proof.Machine

/-! ## The modulators (R222, R235) -/

section
variable (F : OpenFunctions) (p : Params) (v : Voice) (x : OpName) (t : Rat)

@[simp] theorem value_since (start t : Rat) : (since start t).value F = (t : ℝ) - start := rfl

@[simp] theorem value_lfo (hz : Rat) (u : RTerm) : (lfo hz u).value F = Real.sin (2 * Real.pi * hz * u.value F) := by
  simp [lfo]

theorem Voice.value_vibrato : (v.vibrato p x t).value F =
    if (v.op x).vib then (p.vibCents : ℝ) * Real.sin (2 * Real.pi * p.vibHz * ((t : ℝ) - v.t0)) else 0 := by
  unfold Voice.vibrato
  split <;> simp

theorem Voice.value_amFactor : (v.amFactor p x t).value F =
    if (v.op x).am then 1 + (p.amDepth : ℝ) * Real.sin (2 * Real.pi * p.amHz * ((t : ℝ) - v.t0)) else 1 := by
  unfold Voice.amFactor
  split <;> simp

/-- A sine is within 1 of 0, so the factor is within the depth of 1. -/
theorem Voice.abs_value_amFactor_sub_one_le : |(v.amFactor p x t).value F - 1| ≤ |(p.amDepth : ℝ)| := by
  rw [Voice.value_amFactor]
  split
  · rw [add_sub_cancel_left, abs_mul]
    exact mul_le_of_le_one_right (abs_nonneg _) (Real.abs_sin_le_one _)
  · rw [sub_self, abs_zero]
    exact abs_nonneg _

/-! ## Detune and frequency (R222, R223) -/

theorem Voice.value_freq : (v.freq p x t).value F =
    (v.op x).f.value F * (2 : ℝ) ^ (((v.bendAt t : ℝ) + (v.vibrato p x t).value F) / 1200) := by
  simp [Voice.freq, Voice.cents]

end

/-- The breakpoint in force is the last one that is not in the future (R222). -/
theorem Voice.bendAt_of_future {v : Voice} {before after : List (Rat × Rat)} {b : Rat × Rat} {t : Rat}
    (hbend : v.bend = before ++ b :: after) (hb : b.1 ≤ t) (hafter : ∀ a ∈ after, t < a.1) : v.bendAt t = b.2 := by
  have hfuture : after.filter (fun a => decide (a.1 ≤ t)) = [] :=
    List.filter_eq_nil_iff.mpr fun a ha => by simpa using hafter a ha
  simp [Voice.bendAt, hbend, hb, hfuture]

/-- Settles O42: the terms of R222 and R223 one by one, and the last breakpoint that is not in the future. -/
theorem operatorFrequency : Obligations.OperatorFrequency := fun F p v x t =>
  ⟨by rw [Voice.value_freq, Voice.value_vibrato], fun _ _ _ => Voice.bendAt_of_future, rfl, rfl⟩

/-- Settles O41: the bounds of R235 are those of a factor within 6/100 of 1. -/
theorem amplitudeModulation : Obligations.AmplitudeModulation := by
  intro F p v x t
  have hwithin := v.abs_value_amFactor_sub_one_le F p x t
  refine ⟨by rw [Voice.gainAM, RTerm.value_mul, Voice.value_amFactor], hwithin, fun hdepth => ?_, rfl, rfl⟩
  have hdepth' : |(p.amDepth : ℝ)| = 6 / 100 := by rw [hdepth]; norm_num
  obtain ⟨hlower, hupper⟩ := abs_le.mp (hwithin.trans_eq hdepth')
  constructor <;> linarith

end Sys2Proof.Machine
end

section
/-! PROOFS. The gain of an operator (45_audio_path.md R230 to R234), over the exact reals: the value of each branch, the
choice between the branches, then the release ramp and the hard-stop fade over the envelope. -/

namespace Sys2Proof.Machine

/-! ## The branches of the envelope (R230) -/

section
variable (F : OpenFunctions) (o : OpRun)

@[simp] theorem value_timeConstant (d : Dur) : (timeConstant d).value F = d.term.value F / F.envK := rfl

@[simp] theorem value_approach (target start elapsed tau : RTerm) : (approach target start elapsed tau).value F =
    target.value F + (start.value F - target.value F) * Real.exp (-elapsed.value F / tau.value F) := rfl

theorem value_floorLevel : (RTerm.rat Config.floorLevel).value F = 0.00002 := by
  rw [RTerm.value_rat, Config.floorLevel]
  norm_num

theorem OpRun.value_attackGain (u : RTerm) : (o.attackGain u).value F =
    o.level.value F * (1 - Real.exp (-u.value F / (o.attack.term.value F / F.envK))) := by
  simp [OpRun.attackGain]

theorem OpRun.value_gA : o.gA.value F = o.level.value F * (1 - Real.exp (-F.envK)) := by
  simp [OpRun.gA]

theorem OpRun.value_sustainGain : o.sustainGain.value F = o.level.value F * o.sustain.value F := rfl

theorem OpRun.value_decayGain (u : RTerm) : (o.decayGain u).value F = o.sustainGain.value F +
    (o.gA.value F - o.sustainGain.value F) *
      Real.exp (-(u.value F - o.attack.term.value F) / (o.decay.term.value F / F.envK)) := rfl

theorem OpRun.value_gD : o.gD.value F = o.sustainGain.value F +
    (o.gA.value F - o.sustainGain.value F) * Real.exp (-F.envK) := rfl

theorem OpRun.value_selfReleaseGain (u : RTerm) : (o.selfReleaseGain u).value F = 0.00002 + (o.gD.value F - 0.00002) *
    Real.exp (-(u.value F - o.attack.term.value F - o.decay.term.value F) / (o.release.term.value F / F.envK)) := by
  rw [OpRun.selfReleaseGain, value_approach, value_floorLevel]
  rfl

/-! ## The envelope (R230 to R232) -/

/-- The model's exact comparisons choose the branch that the rule's comparisons of reals choose. -/
theorem OpRun.value_env0 {o : OpRun} (hok : o.ok) (start t : Rat) :
    (o.env0 start t).value F = o.realEnv0 F ((t : ℝ) - start) := by
  obtain ⟨-, -, -, hAD, -⟩ := hok
  have hattack := Dur.not_le_sub_iff F o.attack start t
  have hdecay := Dur.not_le_sub_iff F (o.attack.addSame o.decay) start t
  rw [← sub_lt_iff_lt_add'] at hattack hdecay
  rw [Dur.value_addSame F hAD] at hdecay
  unfold OpRun.env0 OpRun.realEnv0 Machine.realEnv0
  simp only [hattack, hdecay, apply_ite (RTerm.value F), OpRun.value_attackGain, OpRun.value_decayGain,
    OpRun.value_selfReleaseGain, OpRun.value_gD, OpRun.value_gA, OpRun.value_sustainGain, value_since, ite_or]

/-- At the end of a phase of a positive duration the approach has run for `ENV_K` time constants. -/
theorem Dur.value_div_timeConstant {d : Dur} (hd : 0 < d.coef) : d.term.value F / (d.term.value F / F.envK) = F.envK :=
  div_div_cancel₀ fun h => not_le.mpr hd ((Dur.value_nonpos_iff F d).mp h.le)

/-- Settles O38: the choice of the branch, then where two branches meet: one at its end, the other at its start. -/
theorem envelopeValue : Obligations.EnvelopeValue := by
  intro F o _ hok
  refine ⟨fun start t _ => OpRun.value_env0 F hok start t, ?attackEnd, ?decayStart, ?decayEnd, ?releaseStart⟩
  all_goals obtain ⟨hA, hD, -, -, -⟩ := hok
  case attackEnd => rw [OpRun.value_attackGain, OpRun.value_gA, neg_div, Dur.value_div_timeConstant F hA]
  case decayStart =>
    rw [OpRun.value_decayGain, sub_self, neg_zero, zero_div, Real.exp_zero, mul_one, add_sub_cancel]
  case decayEnd =>
    rw [OpRun.value_decayGain, OpRun.value_gD, RTerm.value_add, add_sub_cancel_left, neg_div,
      Dur.value_div_timeConstant F hD]
  case releaseStart =>
    rw [OpRun.value_selfReleaseGain, RTerm.value_add, add_sub_cancel_left, sub_self, neg_zero, zero_div, Real.exp_zero,
      mul_one, add_sub_cancel]

end

/-! ## The release ramp (R233) -/

section
variable {v : Voice} {x : OpName} {t : Rat}

theorem Voice.op_ok (hm : v.opM.ok) (hc : v.opC.ok) (x : OpName) : (v.op x).ok := by
  cases x with
  | modulator => exact hm
  | carrier => exact hc

theorem Voice.env1_of_lt (h : t < v.t0) : v.env1 x t = .rat 0 := if_pos h

theorem Voice.env1_of_unreleased (hstart : v.t0 ≤ t) (hrel : ∀ tr ∈ v.rel, t < tr) :
    v.env1 x t = (v.op x).env0 v.t0 t := by
  rw [Voice.env1, if_neg (not_lt.mpr hstart)]
  cases h : v.rel with
  | none => rfl
  | some tr => exact if_pos (hrel tr h)

theorem Voice.env1_of_released {tr : Rat} (hstart : v.t0 ≤ t) (hrel : v.rel = some tr) (htr : tr ≤ t) :
    v.env1 x t = approach (.rat Config.floorLevel) (v.releaseStart x tr) (since tr t)
      (timeConstant (v.op x).release) := by
  rw [Voice.env1, if_neg (not_lt.mpr hstart), hrel]
  exact if_neg (not_lt.mpr htr)

theorem Voice.value_releaseStart (F : OpenFunctions) (hok : (v.op x).ok) (tr : Rat) : (v.releaseStart x tr).value F =
    if tr < v.t0 then 0 else (v.op x).realEnv0 F ((tr : ℝ) - v.t0) := by
  rw [Voice.releaseStart, apply_ite (RTerm.value F), OpRun.value_env0 F hok, RTerm.value_rat, Rat.cast_zero]

/-- Settles O39: the three cases of R233. -/
theorem releaseRamp : Obligations.ReleaseRamp := by
  intro F v x t _ hm hc
  have hok := Voice.op_ok hm hc x
  refine ⟨fun hbefore => ?silent, fun hstart hrel => ?sounding, fun hstart tr hrel htr => ?released⟩
  case silent => rw [Voice.env1_of_lt hbefore, RTerm.value_rat, Rat.cast_zero]
  case sounding => rw [Voice.env1_of_unreleased hstart hrel, OpRun.value_env0 F hok]
  case released =>
    rw [Voice.env1_of_released hstart hrel htr, value_approach, value_floorLevel, Voice.value_releaseStart F hok,
      value_since, value_timeConstant]

/-! ## The hard-stop fade (R234) -/

theorem Voice.gain_of_unfaded (p : Params) (h : ∀ th ∈ v.hs, t < th) : v.gain p x t = v.env1 x t := by
  rw [Voice.gain]
  cases hhs : v.hs with
  | none => rfl
  | some th => exact if_pos (h th hhs)

theorem Voice.value_gain_of_fading (F : OpenFunctions) (p : Params) {th : Rat} (hhs : v.hs = some th) (hth : th ≤ t) :
    (v.gain p x t).value F = (v.env1 x th).value F * max 0 (1 - ((t : ℝ) - th) / p.hardStopS) := by
  simp [Voice.gain, hhs, not_lt.mpr hth]

/-- Settles O40: the line of R234 is at 1 after no time, and at 0 or below after HARD_STOP_S or more. -/
theorem hardStopFade : Obligations.HardStopFade := by
  intro F p v x t hpos
  refine ⟨Voice.gain_of_unfaded p, fun th hhs hth => ?_⟩
  have hline := v.value_gain_of_fading F p (x := x) hhs hth
  refine ⟨hline, fun hstart => ?_, fun hend => ?_⟩
  · rw [hline, hstart, sub_self, zero_div, sub_zero, max_eq_right zero_le_one, mul_one]
  · have hpos' : (0 : ℝ) < p.hardStopS := Rat.cast_pos.mpr hpos
    have hend' : (p.hardStopS : ℝ) ≤ (t : ℝ) - th := by exact_mod_cast le_sub_iff_add_le'.mpr hend
    rw [hline, max_eq_left (sub_nonpos.mpr ((one_le_div hpos').mpr hend')), mul_zero]

end

end Sys2Proof.Machine
end

section
/-! PROOFS. The sample tick (45_audio_path.md R220 to R226, R240, R241): when a step is one, the sample over the exact
reals as a sum over the active voices, and how the phases advance. -/

namespace Sys2Proof.Machine

section
variable (F : OpenFunctions) (p : Params) (t : Rat)

/-! ## Active voices and their output (R221, R224, R225) -/

theorem Voice.active_iff (v : Voice) : v.active t = true ↔
    v.t0 ≤ t ∧ ¬ ∃ m, v.stop = some m ∧ m.term.value F ≤ (t : ℝ) := by
  rw [Voice.active, Bool.and_eq_true, decide_eq_true_iff, Bool.not_eq_true', ← Bool.not_eq_true,
    stoppedBy_iff_value_le F]

theorem Voice.value_opOut (v : Voice) (x : OpName) : (v.opOut p x t).value F =
    (Numerics.exact F).wave p.wtN p.wtPrime (v.op x).ws (v.op x).fb ((v.ph x).value F) *
      (v.gainAM p x t).value F := rfl

theorem Voice.out_of_fm {v : Voice} (h : v.alg = .fm) : v.out p t = v.opOut p .carrier t := by
  rw [Voice.out, h]

theorem Voice.out_of_additive {v : Voice} (h : v.alg = .additive) :
    v.out p t = .add (v.opOut p .carrier t) (v.opOut p .modulator t) := by
  rw [Voice.out, h]

theorem Voice.fcar_of_fm {v : Voice} (h : v.alg = .fm) : v.fcar p t =
    .add (v.freq p .carrier t) (.mul (.fmDepth v.opM.f v.opC.f) (v.opOut p .modulator t)) := by
  rw [Voice.fcar, h]

theorem Voice.fcar_of_additive {v : Voice} (h : v.alg = .additive) : v.fcar p t = v.freq p .carrier t := by
  rw [Voice.fcar, h]

/-! ## The mix (R240) -/

/-- A formula that adds up one term per voice denotes the sum of what the terms denote. -/
theorem value_foldl_add (term : Voice → RTerm) (vs : List Voice) (acc : RTerm) :
    (vs.foldl (fun a v => .add a (term v)) acc).value F = acc.value F + (vs.map fun v => (term v).value F).sum := by
  induction vs generalizing acc with
  | nil => simp
  | cons v vs ih => rw [List.foldl_cons, ih, RTerm.value_add, List.map_cons, List.sum_cons, add_assoc]

theorem value_mixSum (gainOf : Voice → RTerm) (vs : List Voice) : (mixSum p t gainOf vs).value F =
    ((vs.filter (·.active t)).map fun v => (gainOf v).value F * (v.out p t).value F).sum := by
  rw [mixSum, value_foldl_add, RTerm.value_rat, Rat.cast_zero, zero_add]
  rfl

end

/-- One side of the sample at time `t`, for the pan gain of that side (R240). -/
def State.mixOf (s : State) (t : Rat) (gainOf : Voice → RTerm) : RTerm :=
  .mul (.rat s.mvol) (mixSum s.par t gainOf (s.vt ++ s.tails))

theorem State.sampleTick_outL_eq_mixOf (s : State) : s.sampleTick.outL = s.mixOf s.clk Voice.gL := rfl

theorem State.sampleTick_outR_eq_mixOf (s : State) : s.sampleTick.outR = s.mixOf s.clk Voice.gR := rfl

theorem State.value_mixOf (F : OpenFunctions) (s : State) (t : Rat) (gainOf : Voice → RTerm) :
    (s.mixOf t gainOf).value F = (s.mvol : ℝ) * (((s.vt ++ s.tails).filter (·.active t)).map fun v =>
      (gainOf v).value F * (v.out s.par t).value F).sum := by
  rw [State.mixOf, RTerm.value_mul, RTerm.value_rat, value_mixSum]

/-- The order of summation does not matter over the reals (R240). -/
theorem State.value_mixOf_of_perm (F : OpenFunctions) {s s' : State} (hpar : s'.par = s.par) (hmvol : s'.mvol = s.mvol)
    (hvoices : (s'.vt ++ s'.tails).Perm (s.vt ++ s.tails)) (t : Rat) (gainOf : Voice → RTerm) :
    (s'.mixOf t gainOf).value F = (s.mixOf t gainOf).value F := by
  rw [State.value_mixOf, State.value_mixOf, hpar, hmvol, ((hvoices.filter _).map _).sum_eq]

/-- Settles O43: the sum of R240, in which a voice's output is that of its algorithm. -/
theorem tickMix : Obligations.TickMix := by
  intro F s t
  refine ⟨fun v u => v.active_iff F u, ?_⟩
  intro sounding osc y
  have hout (v : Voice) : (v.out s.par t).value F = y v := by
    dsimp only [y]
    cases halg : v.alg with
    | fm => rw [Voice.out_of_fm _ _ halg]; rfl
    | additive => rw [Voice.out_of_additive _ _ halg]; rfl
  have hmix (gainOf : Voice → RTerm) : (s.mixOf t gainOf).value F =
      (s.mvol : ℝ) * (sounding.map fun v => (gainOf v).value F * y v).sum := by
    simp only [State.value_mixOf, hout, sounding]
  rw [State.sampleTick_outL_eq_mixOf, State.sampleTick_outR_eq_mixOf, hmix, hmix]
  refine ⟨rfl, rfl, fun hnone => ?_⟩
  simp only [hnone, List.map_nil, List.sum_nil, mul_zero, and_self]

/-- Settles O45: the voices of the two states are the same up to their order. -/
theorem outputIndependence : Obligations.OutputIndependence := by
  intro F s s' hpar hclkN hmvol hvt htails
  have hvoices : (s'.vt ++ s'.tails).Perm (s.vt ++ s.tails) := hvt ▸ htails.symm.append_left s.vt
  simp only [State.sampleTick_outL_eq_mixOf, State.sampleTick_outR_eq_mixOf, State.clk_congr hpar hclkN,
    State.value_mixOf_of_perm F hpar hmvol hvoices, and_self]

/-! ## The step of the audio agent (R220) -/

theorem State.attend_of_not_due {s : State} (h : ∀ e ∈ s.env.head?, s.clkN < e.1) : s.attend = s.idle := by
  rw [State.attend]
  cases henv : s.env with
  | nil => rfl
  | cons e rest => exact if_neg (not_le.mpr (h e (by rw [henv, List.head?_cons, Option.mem_some_iff])))

theorem State.idle_of_timer_not_due {s : State} (h : s.sched.timerDue s.clk = false) : s.idle = .next s.sampleTick := by
  rw [State.idle, h]
  rfl

/-- With nothing waiting and nothing due, the step is one sample tick. -/
theorem step_eq_sampleTick {s : State} (hport : s.port = []) (henv : ∀ e ∈ s.env.head?, s.clkN < e.1)
    (htimer : s.sched.timerDue s.clk = false) : step s = .next s.sampleTick := by
  rw [step_of_port_nil hport, State.attend_of_not_due henv, State.idle_of_timer_not_due htimer]

/-! ## The phases (R226) -/

theorem Voice.ticked_of_active {p : Params} {t : Rat} {v : Voice} (h : v.active t = true) :
    v.ticked p t = v.advance p t := if_pos h

theorem Voice.ticked_of_inactive {p : Params} {t : Rat} {v : Voice} (h : ¬ v.active t = true) : v.ticked p t = v :=
  if_neg h

theorem Voice.value_advance_phM (F : OpenFunctions) (p : Params) (v : Voice) (t : Rat) :
    (v.advance p t).phM.value F = v.phM.value F + (v.freq p .modulator t).value F / p.fs := rfl

theorem Voice.value_advance_phC (F : OpenFunctions) (p : Params) (v : Voice) (t : Rat) :
    (v.advance p t).phC.value F = v.phC.value F + (v.fcar p t).value F / p.fs := rfl

/-- Both phases are zero up to the first tick at or after the start (R226). -/
theorem Voice.ok.phases_zero {p : Params} {clk : Rat} {v : Voice} (F : OpenFunctions) (hok : v.ok p clk)
    (h : clk < v.t0 + 1 / p.fs) : v.phM.value F = 0 ∧ v.phC.value F = 0 := by
  obtain ⟨-, -, -, -, hzero⟩ := hok
  obtain ⟨hM, hC⟩ := hzero h
  rw [hM, hC, RTerm.value_rat, Rat.cast_zero]
  exact ⟨rfl, rfl⟩

/-- Settles O44: the step is a sample tick, which moves every voice as R226 says and nothing but the voices, the clock
and the output. -/
theorem tickPhases : Obligations.TickPhases := by
  intro F s hport henv htimer t moved
  have hmoved (v : Voice) : moved v (v.ticked s.par t) := by
    refine ⟨v.ticked_eq s.par t, ?_⟩
    split
    next hactive =>
      rw [Voice.ticked_of_active hactive]
      refine ⟨v.value_advance_phM F s.par t, (v.value_advance_phC F s.par t).trans ?_⟩
      cases halg : v.alg with
      | fm => rw [Voice.fcar_of_fm _ _ halg]; rfl
      | additive => rw [Voice.fcar_of_additive _ _ halg, add_zero]
    next hinactive => exact Voice.ticked_of_inactive hinactive
  have hall (vs : List Voice) : List.Forall₂ moved vs (vs.map (·.ticked s.par t)) :=
    List.forall₂_map_right_iff.mpr (List.forall₂_same.mpr fun v _ => hmoved v)
  exact ⟨fun hinv v hv => (hinv.voices v hv).phases_zero F, s.sampleTick, step_eq_sampleTick hport henv htimer, rfl, rfl,
    rfl, hall s.vt, hall s.tails, State.sameMemory_of_eq rfl rfl, rfl⟩

end Sys2Proof.Machine
end

section
/-! PROOFS. The system commands (46_system_commands.md R261, R262, R264, R265): for each, the outcome in the cases the
rule names and what it leaves. ALL_STOP turns on one voice: a hard-stop ends an unfinished voice after the clock and at
the end of its fade at the latest, and a second one finds the fade it would set. -/

namespace Sys2Proof.Machine

/-! ## CH_RESET (R262) -/

theorem exec_chReset (t : TimeField) (s : State) :
    exec (.chReset t) s = .next { s with ch := Vector.replicate 16 s.par.chReset } := rfl

theorem State.chan_of_ch_replicate {s : State} {x : Channel} (h : s.ch = Vector.replicate 16 x) (c : Chan) :
    s.chan c = x := by
  simp only [State.chan, h, Vector.getElem_replicate]

/-- Settles O48: the table is filled with one record, and no other field is written. -/
theorem channelReset : Obligations.ChannelReset := fun s t =>
  ⟨_, exec_chReset t s, State.chan_of_ch_replicate rfl, State.sameMemory_of_eq rfl rfl, rfl⟩

/-! ## DEV_ATTACH (R264, R363) -/

theorem exec_devAttach_same (s : State) (t : TimeField) : exec (.devAttach s.dev t) s = .next s :=
  if_pos rfl

section
variable {s : State} {handle : BitVec 16} (t : TimeField)

theorem exec_devAttach_of_finished (hother : handle ≠ s.dev) (h : s.holdsUnfinished = false) :
    exec (.devAttach handle t) s = .next { s with dev := handle, wtc := [] } := by
  simp [exec, execDevAttach, hother, h]

theorem exec_devAttach_of_unfinished (hother : handle ≠ s.dev) (h : s.holdsUnfinished = true) :
    exec (.devAttach handle t) s = .refused .deviceChangeWhileUnfinished := by
  simp [exec, execDevAttach, hother, h]

end

/-- Settles O50: the three branches of R264, told apart by the handle and by R363's test. -/
theorem deviceAttach : Obligations.DeviceAttach := by
  intro s handle t
  refine ⟨?same, ?completes, ?refused⟩
  case same =>
    rintro rfl
    exact exec_devAttach_same s t
  case completes =>
    intro hother hfinished
    exact ⟨_, exec_devAttach_of_finished t hother (State.holdsUnfinished_eq_false.mpr hfinished), rfl, rfl,
      State.sameMemory_of_eq rfl rfl, rfl⟩
  case refused =>
    intro hother hunfinished
    exact exec_devAttach_of_unfinished t hother (State.holdsUnfinished_eq_true.mpr hunfinished)

/-! ## BANK_CLR (R265, R362) -/

section
variable {s : State} (mel perc : Bool) (t : TimeField)

theorem exec_bankClr_of_finished (h : s.holdsUnfinished = false) : exec (.bankClr mel perc t) s = .next { s with
    pmMel := if mel then s.pmMel.clearValid else s.pmMel
    pmPerc := if perc then s.pmPerc.clearValid else s.pmPerc } := by
  simp [exec, execBankClr, h]

theorem exec_bankClr_of_unfinished (h : s.holdsUnfinished = true) :
    exec (.bankClr mel perc t) s = .refused .bankClearWhileUnfinished := by
  simp [exec, execBankClr, h]

end

/-- A read of a memory that BANK_CLR clears or, by the bit of its space, keeps (R265). -/
theorem Memory.read_ite_clearValid {m : Memory} (h : m.wf) (clear : Bool) (i : Nat) :
    Memory.read (if clear then m.clearValid else m) i =
      { m.read i with valid := (m.read i).valid && !clear } := by
  cases clear with
  | true => rw [if_pos rfl, Memory.read_clearValid h, Bool.not_true, Bool.and_false]
  | false => rw [if_neg Bool.false_ne_true, Bool.not_false, Bool.and_true]

/-- Settles O51: each space reads as its own bit says; with both bits 0 both memories are the old ones. -/
theorem bankClear : Obligations.BankClear := by
  intro s mel perc t
  refine ⟨?completes, ?refused⟩
  case completes =>
    intro hfinished hmel hperc
    refine ⟨_, exec_bankClr_of_finished mel perc t (State.holdsUnfinished_eq_false.mpr hfinished),
      Memory.read_ite_clearValid hmel mel, Memory.read_ite_clearValid hperc perc, rfl, ?nop⟩
    rintro rfl rfl
    rfl
  case refused =>
    intro hunfinished _
    exact exec_bankClr_of_unfinished mel perc t (State.holdsUnfinished_eq_true.mpr hunfinished)

/-! ## ALL_STOP: one voice (R186) -/

section
variable {p : Params} {v : Voice} {t : Rat}

theorem Voice.hardStoppedTail_of_unfinished (h : stoppedBy v.stop t = false) :
    v.hardStoppedTail p t = { v with hs := some (v.fadeStart t), stop := some (v.fadeStop p t) } := by
  rw [Voice.hardStoppedTail_eq, h, if_neg Bool.false_ne_true]

/-- A hard-stopped voice has stopped once a whole fade has passed. -/
theorem Voice.hardStoppedTail_stoppedBy (h : stoppedBy v.stop t = false) :
    stoppedBy (v.hardStoppedTail p t).stop (t + p.hardStopS) = true := by
  have hend : v.fadeStart t + p.hardStopS ≤ t + p.hardStopS := add_le_add_left (v.fadeStart_le t) _
  rw [Voice.hardStoppedTail_of_unfinished h]
  exact stoppedBy_mono hend (v.fadeStop_atOrBefore p t)

/-- The fade of a hard-stop starts at its time, or it was set to start before that. -/
theorem Voice.fadeStart_cases (v : Voice) (t : Rat) : v.fadeStart t = t ∨ v.hs = some (v.fadeStart t) := by
  rw [Voice.fadeStart_eq]
  cases v.hs with
  | none => exact .inl rfl
  | some h =>
    rcases min_choice t h with hmin | hmin
    · exact .inl hmin
    · exact .inr (congrArg some hmin.symm)

/-- A hard-stop does not end an unfinished voice at once: a new fade takes time, and a voice whose old fade is over
would be finished (R186). -/
theorem Voice.hardStoppedTail_unfinished (hfadeTime : 0 < p.hardStopS)
    (hfade : ∀ h ∈ v.hs, stoppedBy v.stop (h + p.hardStopS) = true) (h : stoppedBy v.stop t = false) :
    stoppedBy (v.hardStoppedTail p t).stop t = false := by
  rw [Voice.hardStoppedTail_of_unfinished h, stoppedBy_some]
  rcases v.fadeStop_cases p t with ⟨hnew, hlater⟩ | ⟨hold, -⟩
  · rcases v.fadeStart_cases t with hstart | hstart
    · rw [hnew, hstart, Moment.atOrBefore_ofRat, decide_eq_false (not_le.mpr (lt_add_of_pos_right t hfadeTime))]
    · exact absurd (hfade _ hstart) (Bool.eq_false_iff.mp hlater)
  · rwa [hold] at h

/-- A second hard-stop at the same time changes nothing (R186). -/
theorem Voice.hardStoppedTail_idem (h : stoppedBy v.stop t = false) :
    (v.hardStoppedTail p t).hardStoppedTail p t = v.hardStoppedTail p t := by
  rw [Voice.hardStoppedTail_of_unfinished h]
  exact Voice.hardStoppedTail_of_fading rfl rfl (v.fadeStop_atOrBefore p t) (v.fadeStart_le t)

end

/-! ## ALL_STOP: the voice tables and the output (R261) -/

section
variable {s : State}

theorem exec_allStop (t : TimeField) (s : State) : exec (.allStop t) s = .next s.purge.silence := rfl

/-- The tails after ALL_STOP: the unfinished tails and then the unfinished registry voices, hard-stopped. -/
theorem State.purge_silence_tails (s : State) : s.purge.silence.tails =
    ((s.tails ++ s.vt).filter fun v => !stoppedBy v.stop s.clk).map fun v => v.hardStoppedTail s.par s.clk := by
  rw [List.filter_append]
  rfl

theorem State.mem_purge_silence_tails {w : Voice} : w ∈ s.purge.silence.tails ↔
    ∃ v ∈ s.tails ++ s.vt, stoppedBy v.stop s.clk = false ∧ v.hardStoppedTail s.par s.clk = w := by
  simp only [State.purge_silence_tails, List.mem_map, List.mem_filter, Bool.not_eq_true', and_assoc]

theorem State.purge_silence_tails_stoppedBy {w : Voice} (hw : w ∈ s.purge.silence.tails) :
    stoppedBy w.stop (s.clk + s.par.hardStopS) = true := by
  obtain ⟨v, -, hunfinished, rfl⟩ := State.mem_purge_silence_tails.mp hw
  exact Voice.hardStoppedTail_stoppedBy hunfinished

/-- The output is 0 at a time by which every voice has stopped (R221, R240). -/
theorem State.value_mixOf_of_stopped (F : OpenFunctions) {u : Rat}
    (h : ∀ v ∈ s.vt ++ s.tails, stoppedBy v.stop u = true) (gainOf : Voice → RTerm) :
    (s.mixOf u gainOf).value F = 0 := by
  have hnone : (s.vt ++ s.tails).filter (·.active u) = [] :=
    List.filter_eq_nil_iff.mpr fun v hv => by simp [Voice.active, h v hv]
  rw [State.value_mixOf, hnone, List.map_nil, List.sum_nil, mul_zero]

/-- ALL_STOP changes nothing where the registry is empty and every tail is fading already. -/
theorem State.purge_silence_eq_self (hvt : s.vt = [])
    (hfading : ∀ v ∈ s.tails, stoppedBy v.stop s.clk = false ∧ v.hardStoppedTail s.par s.clk = v) :
    s.purge.silence = s := by
  have htails : s.purge.silence.tails = s.tails := by
    have hkept : (s.tails.filter fun v => !stoppedBy v.stop s.clk) = s.tails :=
      List.filter_eq_self.mpr fun v hv => by rw [(hfading v hv).1, Bool.not_false]
    rw [State.purge_silence_tails, hvt, List.append_nil, hkept]
    exact (List.map_congr_left (g := id) fun v hv => (hfading v hv).2).trans (List.map_id _)
  calc s.purge.silence = { s with vt := [], tails := s.purge.silence.tails } := rfl
    _ = s := by rw [htails, ← hvt]

/-- Under the invariant every tail that ALL_STOP leaves is fading, so that a second ALL_STOP changes nothing. -/
theorem State.Inv.purge_silence_idem (h : s.Inv) : s.purge.silence.purge.silence = s.purge.silence := by
  obtain ⟨-, hfadeTime, -⟩ := h.par
  refine State.purge_silence_eq_self rfl fun w hw => ?_
  obtain ⟨v, hv, hunfinished, rfl⟩ := State.mem_purge_silence_tails.mp hw
  have hfade : ∀ th ∈ v.hs, stoppedBy v.stop (th + s.par.hardStopS) = true :=
    (List.mem_append.mp hv).elim (fun hv => (h.leaving v hv).2) fun hv => (h.live v hv).fade s.par
  exact ⟨Voice.hardStoppedTail_unfinished hfadeTime hfade hunfinished, Voice.hardStoppedTail_idem hunfinished⟩

end

/-- Settles O47: the output is silent because every tail has stopped by the end of its fade, and the second command
finds a state that the first has left nothing to do in. -/
theorem allStopSilences : Obligations.AllStopSilences := by
  intro s t t'
  refine ⟨_, exec_allStop t s, rfl, s.purge_silence_tails, fun _ => State.purge_silence_tails_stoppedBy, ?silent,
    State.sameMemory_of_eq rfl rfl, rfl, ?empty, ?again⟩
  case silent =>
    intro F u hu
    have hstopped : ∀ v ∈ s.purge.silence.vt ++ s.purge.silence.tails, stoppedBy v.stop u = true := fun v hv =>
      stoppedBy_mono hu (State.purge_silence_tails_stoppedBy hv)
    exact ⟨State.value_mixOf_of_stopped F hstopped Voice.gL, State.value_mixOf_of_stopped F hstopped Voice.gR⟩
  case empty =>
    intro hvt htails
    exact State.purge_silence_eq_self hvt fun v hv => absurd (htails ▸ hv) List.not_mem_nil
  case again =>
    intro hinv
    rw [exec_allStop, hinv.purge_silence_idem]

end Sys2Proof.Machine
end

section
/-! PROOFS. Which commands complete (60_exceptions.md R320; 70_reset_and_hazards.md R362, R363): the three that the host
may not issue while a voice is unfinished turn on that test alone, and no other command makes one. -/

namespace Sys2Proof.Machine

theorem State.hazard_devAttach_of_ne {s : State} {handle : BitVec 16} (hother : handle ≠ s.dev) (t : TimeField) :
    s.hazard (.devAttach handle t) = s.holdsUnfinished := by
  simp [State.hazard, hother]

theorem State.hazard_devAttach_same (s : State) (t : TimeField) : s.hazard (.devAttach s.dev t) = false := by
  simp [State.hazard]

/-- Settles O7: the three hazards by R362's test, and every other command by its own meaning. -/
theorem commandsComplete : Obligations.CommandsComplete := by
  intro i s
  cases i with
  | patchWr sp idx valid p =>
    exact ⟨fun h => ⟨_, exec_patchWr_of_finished h sp idx valid p⟩,
      fun h => exec_patchWr_of_unfinished h sp idx valid p⟩
  | bankClr mel perc t =>
    exact ⟨fun h => ⟨_, exec_bankClr_of_finished mel perc t h⟩, fun h => exec_bankClr_of_unfinished mel perc t h⟩
  | devAttach handle t =>
    by_cases hsame : handle = s.dev
    · subst hsame
      exact ⟨fun _ => ⟨s, exec_devAttach_same s t⟩,
        fun h => absurd h (Bool.eq_false_iff.mp (s.hazard_devAttach_same t))⟩
    · rw [State.hazard_devAttach_of_ne hsame]
      exact ⟨fun h => ⟨_, exec_devAttach_of_finished t hsame h⟩, exec_devAttach_of_unfinished t hsame⟩
  | noteOff | noteOn | ccVolume | ccPan | ccExpr | ccReset | ccLoopStart | ccLoopEnd | ccOther | progChange | pitchBend
  | allStop | chReset | mvol => exact ⟨fun _ => ⟨_, rfl⟩, nofun⟩

end Sys2Proof.Machine
end

section
/-! PROOFS. What the host dispatches (47_host_scheduler.md R290, R296): the time that a play-time field spells, and the
word of an event whose bytes are outside their field's range. -/

namespace Sys2Proof.Machine

/-! ## The play-time field (R290, R296, U4) -/

/-- The least multiple of the field's step that is at or after `q`: the play-time of R290. -/
def roundedTime (q : Rat) : Rat := ((q * 2 ^ 32).ceil : Rat) / 2 ^ 32

theorem le_roundedTime (q : Rat) : q ≤ roundedTime q := by
  rw [roundedTime, le_div_iff₀ (by norm_num)]
  exact Rat.le_ceil

theorem roundedTime_lt (q : Rat) : roundedTime q < q + 1 / 2 ^ 32 := by
  rw [roundedTime, div_lt_iff₀ (by norm_num), add_mul, one_div_mul_cancel (by norm_num)]
  exact Rat.ceil_lt

theorem roundedTime_mono {q r : Rat} (h : q ≤ r) : roundedTime q ≤ roundedTime r := by
  have hscaled : q * 2 ^ 32 ≤ r * 2 ^ 32 := mul_le_mul_of_nonneg_right h (by norm_num)
  have hceil : (q * 2 ^ 32).ceil ≤ (r * 2 ^ 32).ceil := Rat.ceil_le_iff.mpr (hscaled.trans Rat.le_ceil)
  exact div_le_div_of_nonneg_right (Int.cast_le.mpr hceil) (by norm_num)

section
variable {now q : Rat} {t : TimeField}

/-- The rounding is below 0 from one step of the field below 0 on. -/
theorem ceil_neg_iff {r : Rat} : r.ceil < 0 ↔ r ≤ -1 := by
  rw [Int.lt_iff_add_one_le, ← le_neg_iff_add_nonpos_right, Rat.ceil_le_iff]
  norm_num

/-- A field that is not free spells the rounded play-time. -/
theorem playTime_of_timeFieldOf (h : timeFieldOf now q = some t) (hq : -1 < q * 2 ^ 32) :
    playTime t = roundedTime q := by
  obtain ⟨hneg, -⟩ | ⟨h0, hfits, rfl⟩ := timeFieldOf_eq_some.mp h
  · exact absurd (ceil_neg_iff.mp hneg) (not_le.mpr hq)
  · rw [playTime, roundedTime, BitVec.toNat_ofNat, Nat.mod_eq_of_lt (by omega), ← Int.cast_natCast,
      Int.toNat_of_nonneg h0]

/-- A free field is past (R296). -/
theorem playTime_lt_of_timeFieldOf (h : timeFieldOf now q = some t) (hq : q * 2 ^ 32 ≤ -1) (hnow : 0 < now) :
    playTime t < now := by
  obtain ⟨-, rfl⟩ | ⟨h0, -⟩ := timeFieldOf_eq_some.mp h
  · exact playTime_pastTimeField_lt hnow q
  · exact absurd (ceil_neg_iff.mpr hq) (not_lt.mpr h0)

/-- A play-time has a field where its rounding is below 2^32 seconds (U4). -/
theorem timeFieldOf_isSome : (timeFieldOf now q).isSome ↔ q * 2 ^ 32 ≤ 2 ^ 64 - 1 := by
  have hfits : (q * 2 ^ 32).ceil < 2 ^ 64 ↔ q * 2 ^ 32 ≤ 2 ^ 64 - 1 := by
    rw [← Int.le_sub_one_iff, Rat.ceil_le_iff]
    norm_num
  rw [Option.isSome_iff_exists, ← hfits]
  constructor
  · rintro ⟨t, ht⟩
    obtain ⟨hneg, -⟩ | ⟨-, hlt, -⟩ := timeFieldOf_eq_some.mp ht
    · omega
    · exact hlt
  · intro hlt
    by_cases hneg : (q * 2 ^ 32).ceil < 0
    · exact ⟨_, timeFieldOf_eq_some.mpr (.inl ⟨hneg, rfl⟩)⟩
    · exact ⟨_, timeFieldOf_eq_some.mpr (.inr ⟨not_lt.mp hneg, hlt, rfl⟩)⟩

end

/-! ## The word (R73, R79, R86 b) -/

theorem withData_eq_error {f : CommandFields} {k : Data7 → Data7 → Instr} : withData f k = .error .dataByte ↔
    f.d1.getLsbD 7 = true ∨ f.d2.getLsbD 7 = true := by
  unfold withData
  cases f.d1.getLsbD 7 <;> cases f.d2.getLsbD 7 <;> simp

theorem Event.not_legal_iff {e : Event} : ¬ e.legal ↔
    e.d1.getLsbD 7 = true ∨ (e.kind ≠ .programChange ∧ e.d2.getLsbD 7 = true) := by
  rw [Event.legal, not_and_or, not_or, Bool.not_eq_false, Bool.not_eq_false]

/-- The word of an event with a byte outside its field's range is reserved (R86 b; log 26). -/
theorem Event.decode_eventWord_of_not_legal {e : Event} (h : ¬ e.legal) (t : TimeField) :
    decode (eventWord t (eventOpcode e.kind) e.ch e.d1 e.d2) = .error .dataByte := by
  obtain ⟨time, kind, ch, d1, d2⟩ := e
  have hbytes := Event.not_legal_iff.mp h
  rw [decode_eventWord]
  cases kind with
  | programChange =>
    have hd1 : d1.getLsbD 7 = true := hbytes.resolve_right fun hother => hother.1 rfl
    exact if_pos hd1
  | noteOff | noteOn | controlChange | pitchBend =>
    simp only [decodeFields, eventOpcode, BitVec.reduceToNat]
    have hd : d1.getLsbD 7 = true ∨ d2.getLsbD 7 = true := hbytes.imp_right And.right
    exact withData_eq_error.mpr hd

/-- Settles O53: the field of the play-time and the word around it. -/
theorem dispatchRoundsUp : Obligations.DispatchRoundsUp := by
  intro now anchor e
  refine ⟨fun w hw => ?word, ?fits⟩
  case word =>
    obtain ⟨t, ht, rfl⟩ := dispatchEvent_eq_some.mp hw
    refine ⟨t, fun hq => ?_, playTime_lt_of_timeFieldOf ht, fun h => Event.decode_eventWord_of_legal h t,
      fun h => Event.decode_eventWord_of_not_legal h t⟩
    rw [playTime_of_timeFieldOf ht hq]
    exact ⟨le_roundedTime _, roundedTime_lt _⟩
  case fits =>
    rw [dispatchEvent, Option.isSome_map]
    exact timeFieldOf_isSome

end Sys2Proof.Machine
end

section
/-! PROOFS. The loop scan (47_host_scheduler.md R285, R286): the markers that the host looks up are the first events of
their kind, and what the loop fields say of the song's times. -/

namespace Sys2Proof.Machine

/-! ## The first event that passes a test -/

section
variable {seq : List Event} {i : Nat} {P Q : Nat → Event → Prop}

theorem IsFirst.congr (h : ∀ k e, P k e ↔ Q k e) : IsFirst P seq i ↔ IsFirst Q seq i := by
  simp only [IsFirst, h]

theorem IsFirst.exists_event (h : IsFirst P seq i) : ∃ e, seq[i]? = some e := by
  obtain ⟨⟨e, he, -⟩, -⟩ := h
  exact ⟨e, he⟩

theorem findIdx?_eq_some_iff_isFirst {test : Event → Bool} :
    seq.findIdx? test = some i ↔ IsFirst (fun _ e => test e = true) seq i := by
  rw [List.findIdx?_eq_some_iff_getElem, IsFirst]
  constructor
  · rintro ⟨hi, htest, hbefore⟩
    refine ⟨⟨_, List.getElem?_eq_getElem hi, htest⟩, fun k hk e he => ?_⟩
    obtain ⟨-, rfl⟩ := List.getElem?_eq_some_iff.mp he
    exact hbefore k hk
  · rintro ⟨⟨e, he, htest⟩, hbefore⟩
    obtain ⟨hi, rfl⟩ := List.getElem?_eq_some_iff.mp he
    exact ⟨hi, htest, fun k hk => hbefore k hk _ (List.getElem?_eq_getElem (hk.trans hi))⟩

/-- The first event of the rest of a song, in the numbering of the song. -/
theorem isFirst_drop_iff {n : Nat} {P : Event → Prop} :
    (∃ k, IsFirst (fun _ e => P e) (seq.drop n) k ∧ k + n = i) ↔ IsFirst (fun k e => n ≤ k ∧ P e) seq i := by
  simp only [IsFirst, List.getElem?_drop]
  constructor
  · rintro ⟨k, ⟨⟨e, he, hP⟩, hbefore⟩, rfl⟩
    rw [Nat.add_comm] at he
    refine ⟨⟨e, he, Nat.le_add_left n k, hP⟩, fun m hm a ha => fun ⟨hn, hPa⟩ => ?_⟩
    exact hbefore (m - n) (by omega) a (by rwa [Nat.add_sub_cancel' hn]) hPa
  · rintro ⟨⟨e, he, hn, hP⟩, hbefore⟩
    refine ⟨i - n, ⟨⟨e, by rwa [Nat.add_sub_cancel' hn], hP⟩, fun m hm a ha hPa => ?_⟩, Nat.sub_add_cancel hn⟩
    exact hbefore (n + m) (by omega) a ha ⟨Nat.le_add_right n m, hPa⟩

end

/-! ## The markers (R285) -/

/-- `i` is the index of the song's loop-start marker. -/
def IsLoopStart (seq : List Event) (i : Nat) : Prop :=
  IsFirst (fun _ e => e.kind = .controlChange ∧ e.d1 = 110#8) seq i

/-- `j` is the index of the loop-end marker that belongs to the start marker at `i`. -/
def IsLoopEnd (seq : List Event) (i j : Nat) : Prop :=
  IsFirst (fun k e => i < k ∧ e.kind = .controlChange ∧ e.d1 = 111#8 ∧ ∃ b, seq[i]? = some b ∧ b.time ≤ e.time) seq j

section
variable {seq : List Event} {i j : Nat} {a b : Event}

theorem IsLoopEnd.lt (h : IsLoopEnd seq i j) : i < j := by
  obtain ⟨⟨e, -, hlt, -⟩, -⟩ := h
  exact hlt

theorem Event.isController_iff {cc : BitVec 8} {e : Event} :
    e.isController cc = true ↔ e.kind = .controlChange ∧ e.d1 = cc := by
  simp [Event.isController]

theorem loopStartMarker_eq_some : loopStartMarker seq = some i ↔ IsLoopStart seq i := by
  rw [loopStartMarker, findIdx?_eq_some_iff_isFirst]
  exact IsFirst.congr fun _ _ => Event.isController_iff

theorem loopEndMarker_eq_some (ha : seq[i]? = some a) : loopEndMarker seq i a.time = some j ↔ IsLoopEnd seq i j := by
  simp only [loopEndMarker, Option.map_eq_some_iff, findIdx?_eq_some_iff_isFirst]
  rw [isFirst_drop_iff]
  refine IsFirst.congr fun k e => ?_
  simp [Event.isController_iff, ha, and_assoc]

theorem timeAt_of_getElem? (ha : seq[i]? = some a) : timeAt seq i = a.time := by
  rw [timeAt, ha]
  rfl

end

/-! ## The scan (R285, R286) -/

section
variable {h : Scheduler} {i j : Nat} {a b : Event}

theorem Scheduler.scan_of_markers (hi : IsLoopStart h.seq i) (hj : IsLoopEnd h.seq i j) (ha : h.seq[i]? = some a)
    (hb : h.seq[j]? = some b) :
    h.scan = { h with loopStartIdx := i, loopEndIdx := j, loopStart := a.time, loopEnd := b.time,
                      loopDur := b.time - a.time } := by
  simp only [Scheduler.scan, loopStartMarker_eq_some.mpr hi, timeAt_of_getElem? ha, (loopEndMarker_eq_some ha).mpr hj,
    timeAt_of_getElem? hb]

theorem Scheduler.scan_of_no_markers (hnone : ¬ ∃ i j, IsLoopStart h.seq i ∧ IsLoopEnd h.seq i j) :
    h.scan = { h with loopStartIdx := 0, loopEndIdx := h.seq.length, loopStart := 0, loopEnd := h.total,
                      loopDur := h.total } := by
  unfold Scheduler.scan
  dsimp only
  cases hi : loopStartMarker h.seq with
  | none => rfl
  | some i =>
    have hstart := loopStartMarker_eq_some.mp hi
    obtain ⟨a, ha⟩ := IsFirst.exists_event hstart
    dsimp only
    cases hj : loopEndMarker h.seq i (timeAt h.seq i) with
    | none => rfl
    | some j =>
      rw [timeAt_of_getElem? ha] at hj
      exact absurd ⟨i, j, hstart, (loopEndMarker_eq_some ha).mp hj⟩ hnone

end

/-- Settles O54: the scan by whether there is a pair of markers. -/
theorem loopScan : Obligations.LoopScan := fun _ =>
  ⟨fun _ _ _ _ => Scheduler.scan_of_markers, Scheduler.scan_of_no_markers⟩

/-! ## The times of a loop -/

theorem songOk.time_mono {seq : List Event} (hsong : songOk seq) {i j : Nat} {a b : Event} (ha : seq[i]? = some a)
    (hb : seq[j]? = some b) (hij : i ≤ j) : a.time ≤ b.time := by
  obtain ⟨hordered, -⟩ := hsong
  rw [List.pairwise_map, List.pairwise_iff_getElem] at hordered
  obtain ⟨hi, rfl⟩ := List.getElem?_eq_some_iff.mp ha
  obtain ⟨hj, rfl⟩ := List.getElem?_eq_some_iff.mp hb
  rcases hij.eq_or_lt with rfl | hlt
  · exact le_refl _
  · exact hordered i j hi hj hlt

/-- The loop fields bound the events of the loop: those from the start index on are not before the start, those before
the end index not after the end. -/
structure Scheduler.LoopTimes (h : Scheduler) : Prop where
  start_nonneg : 0 ≤ h.loopStart
  dur_eq : h.loopDur = h.loopEnd - h.loopStart
  start_le : ∀ k e, h.seq[k]? = some e → h.loopStartIdx ≤ k → h.loopStart ≤ e.time
  le_end : ∀ k e, h.seq[k]? = some e → k < h.loopEndIdx → e.time ≤ h.loopEnd

/-- The loop that a scan finds in a song in order: between two markers, or the whole song. -/
theorem Scheduler.scan_loopTimes {h : Scheduler} (hsong : songOk h.seq) (htotal : ∀ e ∈ h.seq, e.time ≤ h.total) :
    h.scan.LoopTimes := by
  by_cases hmarkers : ∃ i j, IsLoopStart h.seq i ∧ IsLoopEnd h.seq i j
  · obtain ⟨i, j, hi, hj⟩ := hmarkers
    obtain ⟨a, ha⟩ := IsFirst.exists_event hi
    obtain ⟨b, hb⟩ := IsFirst.exists_event hj
    rw [Scheduler.scan_of_markers hi hj ha hb]
    exact {
      start_nonneg := hsong.2 a (List.mem_of_getElem? ha)
      dur_eq := rfl
      start_le := fun _ _ he hle => hsong.time_mono ha he hle
      le_end := fun _ _ he hlt => hsong.time_mono he hb hlt.le }
  · rw [Scheduler.scan_of_no_markers hmarkers]
    exact {
      start_nonneg := le_refl _
      dur_eq := (sub_zero _).symm
      start_le := fun _ e he _ => hsong.2 e (List.mem_of_getElem? he)
      le_end := fun _ e he _ => htotal e (List.mem_of_getElem? he) }

theorem Scheduler.ok.loopTimes {clk : Rat} {h : Scheduler} (hok : h.ok clk) (hsong : songOk h.seq) : h.LoopTimes := by
  obtain ⟨-, -, -, -, hscan, hordered⟩ := hok
  obtain ⟨-, -, htotal, -⟩ := hordered hsong
  exact hscan ▸ Scheduler.scan_loopTimes hsong htotal

end Sys2Proof.Machine
end

section
/-! PROOFS. The pump (47_host_scheduler.md R288 to R294): one pass and what comes after it, how much it issues, what of
the host it moves, and when a tick runs. -/

namespace Sys2Proof.Machine

section
variable {p : Params} {now : Rat} {n : Nat} {h h' : Scheduler} {ws : List PortWord}

/-! ## A tick is a pump in Playing (R289) -/

theorem Scheduler.tick_of_playing (p : Params) (now : Rat) (hmode : h.mode = .playing) :
    h.tick p now = h.pumpLoop p now p.maxWraps := by
  rw [Scheduler.tick, hmode]

theorem Scheduler.tick_of_not_playing (p : Params) (now : Rat) (hmode : h.mode ≠ .playing) :
    h.tick p now = some (h, []) := by
  rw [Scheduler.tick]
  split
  · contradiction
  · rfl

/-- A pump reads the lookahead window and no other parameter. -/
theorem Scheduler.pumpLoop_congr {q : Params} (hwindow : q.lookaheadS = p.lookaheadS) :
    h.pumpLoop q now n = h.pumpLoop p now n := by
  have hhorizon (k : Scheduler) : k.horizon q now = k.horizon p now := by
    simp only [Scheduler.horizon, hwindow]
  have hbatch (k : Scheduler) : k.batch q now = k.batch p now := by
    simp only [Scheduler.batch, hhorizon]
  induction n generalizing h with
  | zero => rw [Scheduler.pumpLoop, Scheduler.pumpLoop, hbatch, hhorizon]
  | succ n ih =>
    rw [Scheduler.pumpLoop, Scheduler.pumpLoop, hbatch, hhorizon]
    simp only [ih]

/-! ## One pass and what comes after it (R289, R292 to R294) -/

/-- A pass gets to the end of the section, and the end lies in the window. -/
abbrev Scheduler.reached (p : Params) (now : Rat) (h : Scheduler) : Prop :=
  h.cursor + (h.batch p now).length = h.endIdx ∧ h.endTime ≤ h.horizon p now

/-- The host after a pass: the cursor past the events dispatched. -/
def Scheduler.passed (p : Params) (now : Rat) (h : Scheduler) : Scheduler :=
  { h with cursor := h.cursor + (h.batch p now).length }

/-- The host after a wrap: one loop on, at its first event. -/
def Scheduler.wrapped (h : Scheduler) : Scheduler :=
  { h with anchor := h.anchor + h.loopDur, cursor := h.loopStartIdx }

/-- A wrapped host goes on as a tick with that many wraps would. -/
theorem Scheduler.wrapped_tick (p : Params) (now : Rat) (hmode : h.mode = .playing) (k : Nat) :
    h.wrapped.tick { p with maxWraps := k } now = h.wrapped.pumpLoop p now k :=
  (Scheduler.tick_of_playing (h := h.wrapped) _ now hmode).trans (Scheduler.pumpLoop_congr rfl)

/-- The host after the end of a song that does not loop. -/
def Scheduler.ended (p : Params) (now : Rat) (h : Scheduler) : Scheduler :=
  { h.passed p now with mode := .stopped, timer := none }

/-- The outcome of a pump by what a pass has reached: it returns, goes on with one wrap less, or ends the song. -/
theorem Scheduler.pumpLoop_eq_some : h.pumpLoop p now n = some (h', ws) →
    ∃ first more, ws = first ++ more ∧ dispatchAll now h.anchor (h.batch p now) = some first ∧
      if h.reached p now then
        if h.looping then
          match n with
          | 0 => h' = h.passed p now ∧ more = []
          | k + 1 => h.wrapped.pumpLoop p now k = some (h', more)
        else more = [] ∧ h' = if h.total < now - h.anchor then h.ended p now else h.passed p now
      else h' = h.passed p now ∧ more = [] := by
  intro hp
  obtain ⟨first, hd, hcases⟩ := Scheduler.pumpLoop_cases hp
  obtain ⟨hreturn, rfl, rfl⟩ | ⟨hreached, hloop, k, more, rfl, rfl, hwrap⟩ | ⟨hreached, hloop, hpast, rfl, rfl⟩ :=
    hcases
  · refine ⟨ws, [], (List.append_nil ws).symm, hd, ?_⟩
    by_cases hreached : h.reached p now
    · rw [if_pos hreached]
      obtain hnot | ⟨hloop, rfl⟩ | ⟨hloop, hnot⟩ := hreturn
      · exact absurd hreached hnot
      · rw [if_pos hloop]
        exact ⟨rfl, rfl⟩
      · rw [Scheduler.endTime, hloop, if_neg Bool.false_ne_true] at hnot
        rw [if_neg (Bool.eq_false_iff.mp hloop), if_neg hnot]
        exact ⟨rfl, rfl⟩
    · rw [if_neg hreached]
      exact ⟨rfl, rfl⟩
  · refine ⟨first, more, rfl, hd, ?_⟩
    rw [if_pos hreached, if_pos hloop]
    exact hwrap
  · refine ⟨ws, [], (List.append_nil ws).symm, hd, ?_⟩
    rw [Scheduler.endTime, hloop, if_neg Bool.false_ne_true] at hpast
    rw [if_pos hreached, if_neg (Bool.eq_false_iff.mp hloop), if_pos hpast]
    exact ⟨rfl, rfl⟩

/-! ## How much it issues (R292) -/

/-- A pass issues one word per event of its window. -/
theorem length_eq_of_dispatchAll {anchor : Rat} {es : List Event} (hd : dispatchAll now anchor es = some ws) :
    ws.length = es.length :=
  (dispatchAll_eq_some.mp hd).length_eq.symm

theorem Scheduler.pumpLoop_length_le (hp : h.pumpLoop p now n = some (h', ws)) :
    ws.length ≤ (n + 1) * h.seq.length := by
  induction n using Nat.strong_induction_on generalizing h ws with
  | _ n ih =>
    obtain ⟨ws₀, hd, hcases⟩ := Scheduler.pumpLoop_cases hp
    have hpass : ws₀.length ≤ h.seq.length :=
      (length_eq_of_dispatchAll hd).trans_le (Scheduler.batch_sublist p h now).length_le
    have honce : ws₀.length ≤ (n + 1) * h.seq.length := hpass.trans (Nat.le_mul_of_pos_left _ n.succ_pos)
    obtain ⟨-, -, rfl⟩ | ⟨-, -, k, ws₁, rfl, rfl, hwrap⟩ | ⟨-, -, -, -, rfl⟩ := hcases
    · exact honce
    · have hrest : ws₁.length ≤ (k + 1) * h.seq.length := (ih k k.lt_succ_self hwrap :)
      rw [List.length_append, Nat.succ_mul, Nat.add_comm]
      exact Nat.add_le_add hrest hpass
    · exact honce

theorem Scheduler.tick_length_le (ht : h.tick p now = some (h', ws)) :
    ws.length ≤ (p.maxWraps + 1) * h.seq.length := by
  by_cases hmode : h.mode = .playing
  · rw [Scheduler.tick_of_playing p now hmode] at ht
    exact Scheduler.pumpLoop_length_le ht
  · rw [Scheduler.tick_of_not_playing p now hmode] at ht
    cases ht
    exact Nat.zero_le _

/-! ## What it moves (R292 to R294) -/

/-- A pump moves the cursor, and in a loop the anchor; only the end of a song that does not loop turns it to Stopped. -/
theorem Scheduler.pumpLoop_frame (hp : h.pumpLoop p now n = some (h', ws))
    (hend : h.looping = false → now - h.anchor ≤ h.total) :
    h' = { h with anchor := h'.anchor, cursor := h'.cursor } ∧ (h.looping = false → h'.anchor = h.anchor) := by
  induction n using Nat.strong_induction_on generalizing h ws with
  | _ n ih =>
    obtain ⟨ws₀, -, ⟨-, rfl, -⟩ | ⟨-, hloop, k, ws₁, rfl, -, hwrap⟩ | ⟨-, hloop, hpast, -⟩⟩ :=
      Scheduler.pumpLoop_cases hp
    · exact ⟨rfl, fun _ => rfl⟩
    · have hnot : h.looping ≠ false := by simp [hloop]
      obtain ⟨hframe, -⟩ := ih k k.lt_succ_self hwrap fun hfalse => absurd hfalse hnot
      exact ⟨hframe, fun hfalse => absurd hfalse hnot⟩
    · rw [Scheduler.endTime, hloop, if_neg Bool.false_ne_true] at hpast
      exact absurd hpast (not_lt.mpr (hend hloop))

end

/-! ## Host operations and the timer (R280, R288) -/

theorem State.hostAnswers_hostOutcome (s : State) (r : Option (Scheduler × List PortWord)) :
    s.HostAnswers (s.hostOutcome r) r := by
  cases r with
  | none => rfl
  | some _ => rfl

theorem State.hostAnswers_hostCall (s : State) (c : HostCall) : s.HostAnswers (s.hostCall c) (s.answer c) := by
  rw [State.hostCall_eq_hostOutcome]
  exact s.hostAnswers_hostOutcome _

/-- With nothing waiting and no input due, a due timer sets itself a period on and runs a tick (R288; log 17). -/
theorem step_eq_fire {s : State} {u : Rat} (hport : s.port = []) (henv : ∀ e ∈ s.env.head?, s.clkN < e.1)
    (htimer : s.sched.timer = some u) (hdue : u ≤ s.clk) : step s = s.hostOutcome
      (({ s.sched with timer := some (u + s.par.pumpPeriodS) } : Scheduler).tick s.par s.clk) := by
  have htimerDue : s.sched.timerDue s.clk = true := by simp [Scheduler.timerDue, htimer, hdue]
  rw [step_of_port_nil hport, State.attend_of_not_due henv, State.idle, htimerDue, if_pos rfl, Scheduler.fire, htimer]
  rfl

/-- Settles O56: a pass and its outcome by the four things a pump can do, the bound by induction on the wraps. -/
theorem pumpBoundAndEnd : Obligations.PumpBoundAndEnd := by
  refine ⟨fun p now h h' ws ht => ?tick, fun s => s.hostAnswers_hostCall .tick, fun s u hport henv htimer hdue => ?due⟩
  case due =>
    rw [step_eq_fire hport henv htimer hdue]
    exact s.hostAnswers_hostOutcome _
  case tick =>
    refine ⟨Scheduler.tick_length_le ht, fun hmode => ?_, fun hmode => ?_⟩
    · rw [Scheduler.tick_of_not_playing p now hmode] at ht
      cases ht
      exact ⟨rfl, rfl⟩
    · rw [Scheduler.tick_of_playing p now hmode] at ht
      obtain ⟨first, more, hws, hd, hafter⟩ := Scheduler.pumpLoop_eq_some ht
      simp only [← Scheduler.wrapped_tick p now hmode] at hafter
      exact ⟨first, more, hws, dispatchAll_eq_some.mp hd, hafter⟩

end Sys2Proof.Machine
end

section
/-! PROOFS. The order of a pump's play-times (47_host_scheduler.md R289 to R292): a pass takes events in the order of
the song, and a wrap puts the start of the loop at the time of its end, so that each pass starts where the one before it
has to end. -/

namespace Sys2Proof.Machine

/-- The play-times of the words never decrease, and none is below the rounding of `b`. -/
structure AscendsFrom (b : Rat) (ws : List PortWord) : Prop where
  pairwise : (ws.map wordTime).Pairwise (· ≤ ·)
  bound : ∀ w ∈ ws, roundedTime b ≤ wordTime w

section
variable {now anchor b c : Rat} {p : Params} {h h' : Scheduler} {ws ws' : List PortWord}

/-- Words that all come by `c`, and after them words from `c` on. -/
theorem AscendsFrom.append (hws : AscendsFrom b ws) (hws' : AscendsFrom c ws') (hbc : b ≤ c)
    (hlast : ∀ w ∈ ws, wordTime w ≤ roundedTime c) : AscendsFrom b (ws ++ ws') where
  pairwise := by
    rw [List.map_append, List.pairwise_append]
    refine ⟨hws.pairwise, hws'.pairwise, ?_⟩
    simp only [List.forall_mem_map]
    exact fun w hw w' hw' => (hlast w hw).trans (hws'.bound w' hw')
  bound := by
    intro w hw
    rcases List.mem_append.mp hw with hw | hw
    · exact hws.bound w hw
    · exact (roundedTime_mono hbc).trans (hws'.bound w hw)

/-! ## One pass (R289, R290) -/

theorem wordTime_eventWord (t : TimeField) (op : BitVec 4) (ch : Chan) (d1 d2 : BitVec 8) :
    wordTime (eventWord t op ch d1 d2) = playTime t := by
  rw [eventWord, wordTime, split_join]

/-- An event not before the machine's start is dispatched at its rounded play-time. -/
theorem wordTime_of_dispatchEvent {e : Event} {w : PortWord} (hd : dispatchEvent now anchor e = some w)
    (hstart : 0 ≤ anchor + e.time) : wordTime w = roundedTime (anchor + e.time) := by
  obtain ⟨t, ht, rfl⟩ := dispatchEvent_eq_some.mp hd
  have hnotFree : -1 < (anchor + e.time) * 2 ^ 32 := neg_one_lt_zero.trans_le (mul_nonneg hstart (by norm_num))
  rw [wordTime_eventWord, playTime_of_timeFieldOf ht hnotFree]

theorem map_wordTime_of_dispatchAll {es : List Event} (hd : dispatchAll now anchor es = some ws)
    (hstart : ∀ e ∈ es, 0 ≤ anchor + e.time) :
    ws.map wordTime = es.map fun e => roundedTime (anchor + e.time) := by
  replace hd := dispatchAll_eq_some.mp hd
  induction hd with
  | nil => rfl
  | cons he _ ih =>
    obtain ⟨hfirst, hrest⟩ := List.forall_mem_cons.mp hstart
    rw [List.map_cons, List.map_cons, wordTime_of_dispatchEvent he hfirst, ih hrest]

/-- The words of events in order, all between two play-times. -/
theorem ascendsFrom_of_dispatchAll {es : List Event} (hd : dispatchAll now anchor es = some ws)
    (hordered : (es.map Event.time).Pairwise (· ≤ ·)) (hstart : ∀ e ∈ es, 0 ≤ anchor + e.time)
    (hb : ∀ e ∈ es, b ≤ anchor + e.time) : AscendsFrom b ws where
  pairwise := by
    rw [map_wordTime_of_dispatchAll hd hstart, List.pairwise_map]
    exact (List.pairwise_map.mp hordered).imp fun hle => roundedTime_mono (add_le_add_right hle anchor)
  bound := by
    rw [← List.forall_mem_map (P := fun t => roundedTime b ≤ t), map_wordTime_of_dispatchAll hd hstart,
      List.forall_mem_map]
    exact fun e he => roundedTime_mono (hb e he)

theorem wordTime_le_of_dispatchAll {es : List Event} (hd : dispatchAll now anchor es = some ws)
    (hstart : ∀ e ∈ es, 0 ≤ anchor + e.time) (hc : ∀ e ∈ es, anchor + e.time ≤ c) :
    ∀ w ∈ ws, wordTime w ≤ roundedTime c := by
  rw [← List.forall_mem_map (P := fun t => t ≤ roundedTime c), map_wordTime_of_dispatchAll hd hstart,
    List.forall_mem_map]
  exact fun e he => roundedTime_mono (hc e he)

/-! ## All passes (R292) -/

theorem Scheduler.ok.wrapped (hok : h.ok now) : h.wrapped.ok now :=
  hok.moved rfl hok.loopStartIdx_le hok.timer_iff
    (fun hsong => add_nonneg (hok.anchor_nonneg hsong) (hok.loopDur_nonneg hsong)) hok.pausedElapsed_le

/-- A pump ascends from any time that neither the events from the cursor on nor the end of the loop come before: a wrap
goes on from the play-time of the loop's end. -/
theorem Scheduler.pumpLoop_ascendsFrom {n : Nat} (hsong : songOk h.seq) (hok : h.ok now)
    (hevents : ∀ k e, h.seq[k]? = some e → h.cursor ≤ k → b ≤ h.anchor + e.time) (hend : b ≤ h.anchor + h.loopEnd)
    (hp : h.pumpLoop p now n = some (h', ws)) : AscendsFrom b ws := by
  induction n using Nat.strong_induction_on generalizing b h ws with
  | _ n ih =>
    obtain ⟨ws₀, hd, hcases⟩ := Scheduler.pumpLoop_cases hp
    have hstart : ∀ e ∈ h.batch p now, 0 ≤ h.anchor + e.time := fun e he =>
      add_nonneg (hok.anchor_nonneg hsong) (hsong.2 e ((Scheduler.batch_sublist p h now).subset he))
    have hpass : AscendsFrom b ws₀ := by
      refine ascendsFrom_of_dispatchAll hd (hsong.1.sublist ((Scheduler.batch_sublist p h now).map _)) hstart ?_
      intro e he
      obtain ⟨-, k, hk, hcursor, -⟩ := Scheduler.mem_batch he
      exact hevents k e hk hcursor
    obtain ⟨-, -, rfl⟩ | ⟨-, hloop, m, ws₁, rfl, rfl, hwrap⟩ | ⟨-, -, -, -, rfl⟩ := hcases
    · exact hpass
    · have htimes := hok.loopTimes hsong
      have hjoin : h.wrapped.anchor + h.loopStart = h.anchor + h.loopEnd := by
        rw [Scheduler.wrapped, htimes.dur_eq]
        ring
      have hbefore : ∀ w ∈ ws₀, wordTime w ≤ roundedTime (h.anchor + h.loopEnd) := by
        refine wordTime_le_of_dispatchAll hd hstart fun e he => ?_
        obtain ⟨-, k, hk, -, hlt⟩ := Scheduler.mem_batch he
        rw [Scheduler.endIdx, if_pos hloop] at hlt
        exact add_le_add_right (htimes.le_end k e hk hlt) h.anchor
      have hafter : AscendsFrom (h.anchor + h.loopEnd) ws₁ := by
        refine ih m m.lt_succ_self (h := h.wrapped) hsong hok.wrapped (fun k e hk hle => ?_) ?_ hwrap
        · rw [← hjoin]
          exact add_le_add_right (htimes.start_le k e hk hle) _
        · exact add_le_add_left (le_add_of_nonneg_right (hok.loopDur_nonneg hsong)) _
      exact hpass.append hafter hend hbefore
    · exact hpass

end

/-- Settles O55: in Playing the pump ascends from 0, the machine's start. -/
theorem pumpPlayTimesAscend : Obligations.PumpPlayTimesAscend := by
  intro p now h h' ws hsong hok ht
  by_cases hmode : h.mode = .playing
  · rw [Scheduler.tick_of_playing p now hmode] at ht
    have htimes := hok.loopTimes hsong
    have hanchor := hok.anchor_nonneg hsong
    have hend : 0 ≤ h.loopEnd := by
      linarith [htimes.start_nonneg, htimes.dur_eq, hok.loopDur_nonneg hsong]
    have hevents : ∀ k e, h.seq[k]? = some e → h.cursor ≤ k → 0 ≤ h.anchor + e.time := fun _ e hk _ =>
      add_nonneg hanchor (hsong.2 e (List.mem_of_getElem? hk))
    exact (Scheduler.pumpLoop_ascendsFrom hsong hok hevents (add_nonneg hanchor hend) ht).pairwise
  · rw [Scheduler.tick_of_not_playing p now hmode] at ht
    cases ht
    exact List.Pairwise.nil

end Sys2Proof.Machine
end

section
/-! PROOFS. The control surface (47_host_scheduler.md R283, R287, R297 to R300; 30_encoding.md R88, R91): how play
starts a song, where resume takes it up, and the volume that is set. -/

namespace Sys2Proof.Machine

/-! ## play (R283, R287) -/

/-- The host as `play` starts a song, before the first pump. -/
def Scheduler.started (p : Params) (clk : Rat) (seq : List Event) (total : Rat) (loop : Bool) (h : Scheduler) :
    Scheduler :=
  { ({ h with seq := seq, total := total } : Scheduler).scan with
    looping := loop
    anchor := clk + p.leadS
    cursor := 0
    mode := .playing
    timer := some (clk + p.pumpPeriodS) }

/-- The host and the words before a song starts: a host that is not Stopped stops (R283). -/
def Scheduler.cleared (h : Scheduler) : Scheduler × List PortWord :=
  if h.mode = .stopped then (h, []) else h.stop

section
variable {p : Params} {clk : Rat} {seq : List Event} {loop : Bool} {h h' : Scheduler} {last : Event}
  {ws : List PortWord}

theorem Scheduler.started_seq (total : Rat) : (h.started p clk seq total loop).seq = seq := Scheduler.scan_seq _

theorem Scheduler.started_total (total : Rat) : (h.started p clk seq total loop).total = total :=
  Scheduler.scan_total _

theorem Scheduler.started_scan (total : Rat) :
    (h.started p clk seq total loop).scan = h.started p clk seq total loop :=
  Scheduler.scan_congr (Scheduler.scan_seq _) (Scheduler.scan_total _)

theorem Scheduler.play_of_empty (p : Params) (clk : Rat) (loop : Bool) (h : Scheduler) :
    h.play p clk [] loop = some h.cleared := rfl

/-- A song that has events starts after the words that clear the host and a CH_RESET, with one pump (R283, R287). -/
theorem Scheduler.play_eq_some (hlast : seq.getLast? = some last) (hplay : h.play p clk seq loop = some (h', ws)) :
    ∃ evs, (h.cleared.1.started p clk seq last.time loop).tick p clk = some (h', evs) ∧
      ws = h.cleared.2 ++ chResetWord :: evs := by
  unfold Scheduler.play at hplay
  simp only [hlast] at hplay
  split at hplay
  · cases hplay
  · rename_i evs htick
    cases hplay
    exact ⟨evs, htick, rfl⟩

/-- The first pump does not end the song: its end is not before the anchor, which is ahead of the clock. -/
theorem Scheduler.started_tick_frame {total : Rat} (hlead : 0 ≤ p.leadS) (htotal : 0 ≤ total)
    (ht : (h.started p clk seq total loop).tick p clk = some (h', ws)) :
    h' = { h.started p clk seq total loop with anchor := h'.anchor, cursor := h'.cursor } ∧
      (loop = false → h'.anchor = clk + p.leadS) := by
  rw [Scheduler.tick_of_playing p clk rfl] at ht
  refine Scheduler.pumpLoop_frame ht fun _ => ?_
  rw [Scheduler.started_total, Scheduler.started]
  linarith

end

/-- Settles O57: the host that play starts, and what its first pump leaves of it. -/
theorem playStarts : Obligations.PlayStarts := by
  refine ⟨fun s seq loop => s.hostAnswers_hostCall (.play seq loop), fun p clk seq loop h hlead => ⟨?empty, ?song⟩⟩
  case empty => exact h.play_of_empty p clk loop
  case song =>
    intro last h' ws hlast hsong hplay
    obtain ⟨evs, htick, hws⟩ := Scheduler.play_eq_some hlast hplay
    have htotal : 0 ≤ last.time := hsong.2 last (List.mem_of_getLast? hlast)
    obtain ⟨hframe, hanchor⟩ := Scheduler.started_tick_frame hlead htotal htick
    have hcleared : h.cleared.2 = if h.mode = .stopped then [] else [allStopWord] := by
      rw [Scheduler.cleared, apply_ite Prod.snd]
      rfl
    have hseq : (h.cleared.1.started p clk seq last.time loop).seq = seq := Scheduler.started_seq _
    have hend : (h.cleared.1.started p clk seq last.time loop).total = last.time := Scheduler.started_total _
    rw [hcleared] at hws
    refine ⟨?_, ?_, ?_, ?_, ?_, hanchor, _, evs, hws, Scheduler.started_scan _, hseq, hend, rfl, rfl, rfl, rfl, rfl,
      htick⟩
    all_goals rw [hframe]
    · rfl
    · exact hseq
    · exact hend
    · rfl
    · rfl

/-! ## resume (R298) -/

section
variable {h : Scheduler}

theorem Scheduler.resumeCursor_isFirst (hlater : ∃ e ∈ h.seq, h.pausedElapsed ≤ e.time) :
    IsFirst (fun _ e => h.pausedElapsed ≤ e.time) h.seq h.resumeCursor := by
  unfold Scheduler.resumeCursor
  cases hfind : h.seq.findIdx? fun e => decide (h.pausedElapsed ≤ e.time) with
  | none =>
    obtain ⟨e, he, hle⟩ := hlater
    exact absurd (decide_eq_true hle) (Bool.eq_false_iff.mp (List.findIdx?_eq_none_iff.mp hfind e he))
  | some i => simpa only [Option.getD_some, decide_eq_true_eq] using findIdx?_eq_some_iff_isFirst.mp hfind

theorem Scheduler.resumeCursor_of_past (hpast : ∀ e ∈ h.seq, e.time < h.pausedElapsed) :
    h.resumeCursor = h.endIdx := by
  have hnone : (h.seq.findIdx? fun e => decide (h.pausedElapsed ≤ e.time)) = none :=
    List.findIdx?_eq_none_iff.mpr fun e he => decide_eq_false (not_le.mpr (hpast e he))
  rw [Scheduler.resumeCursor, hnone]
  rfl

end

/-- Settles O58: pause and stop as defined, resume by the cursor it looks up. -/
theorem pauseResumeStop : Obligations.PauseResumeStop := by
  refine ⟨fun s => ⟨s.hostAnswers_hostCall .pause, s.hostAnswers_hostCall .resume, s.hostAnswers_hostCall .stop⟩,
    fun p clk h => ⟨rfl, rfl, fun hmode => if_neg hmode, fun hmode => ?resumed⟩⟩
  case resumed =>
    exact ⟨h.resumeCursor, if_pos hmode, Scheduler.resumeCursor_isFirst, Scheduler.resumeCursor_of_past⟩

/-! ## setMasterVolume (R88, R91, R300) -/

/-- The operand is one of the two integers next to `x · 0x8000`, and nearest to it (R91). -/
theorem volumeOperand_near (x : Rat) : ∃ k : Nat, volumeOperand x = BitVec.ofNat 16 k ∧ k ≤ 0x8000 ∧
    |(k : Rat) - max 0 (min 1 x) * 0x8000| ≤ 1 / 2 := by
  have h0 : (0 : Rat) ≤ max 0 (min 1 x) * 0x8000 := by positivity
  have h1 : max 0 (min 1 x) * 0x8000 ≤ (0x8000 : Rat) := by
    have hclamp : max 0 (min 1 x) ≤ 1 := max_le zero_le_one (min_le_left 1 x)
    linarith
  unfold volumeOperand
  dsimp only
  generalize max 0 (min 1 x) * 0x8000 = y at h0 h1 ⊢
  have hfloor : y.floor.toNat = ⌊y⌋₊ := rfl
  have hle : (y.floor.toNat : Rat) ≤ y := hfloor ▸ Nat.floor_le h0
  have hlt : y < (y.floor.toNat : Rat) + 1 := hfloor ▸ Nat.lt_floor_add_one y
  generalize y.floor.toNat = k at hle hlt ⊢
  have hdown (hnear : y - k ≤ 1 / 2) : k ≤ 0x8000 ∧ |(k : Rat) - y| ≤ 1 / 2 := by
    refine ⟨by exact_mod_cast hle.trans h1, abs_le.mpr ⟨by linarith, by linarith⟩⟩
  have hup (hnear : 1 / 2 ≤ y - k) : k + 1 ≤ 0x8000 ∧ |((k + 1 : Nat) : Rat) - y| ≤ 1 / 2 := by
    have hk : (k : Rat) < 0x8000 := by linarith
    refine ⟨by exact_mod_cast hk, ?_⟩
    push_cast
    exact abs_le.mpr ⟨by linarith, by linarith⟩
  split
  · rename_i hbelow
    exact ⟨k, rfl, hdown hbelow.le⟩
  · rename_i hnotBelow
    split
    · rename_i habove
      exact ⟨k + 1, rfl, hup habove.le⟩
    · rename_i hnotAbove
      split
      · exact ⟨k + 1, rfl, hup (not_lt.mp hnotBelow)⟩
      · exact ⟨k, rfl, hdown (not_lt.mp hnotAbove)⟩

theorem masterVolume_ofNat {k : Nat} (hk : k ≤ 0x8000) : masterVolume (BitVec.ofNat 16 k) = (k : Rat) / 0x8000 := by
  rw [masterVolume, BitVec.toNat_ofNat, Nat.mod_eq_of_lt (by omega), Nat.min_eq_left hk]

/-- Half a step of the operand is half a step of the volume (R88). -/
theorem masterVolume_volumeOperand_near (x : Rat) :
    |masterVolume (volumeOperand x) - max 0 (min 1 x)| ≤ 1 / 65536 := by
  obtain ⟨k, hoperand, hk, hnear⟩ := volumeOperand_near x
  rw [hoperand, masterVolume_ofNat hk]
  obtain ⟨hlow, hhigh⟩ := abs_le.mp hnear
  exact abs_le.mpr ⟨by linarith, by linarith⟩

/-- Settles O59: the word decodes to the MVOL it was encoded from, whose operand is nearest to the request. -/
theorem volumeRequest : Obligations.VolumeRequest := fun x s =>
  ⟨rfl, .mvol (volumeOperand x) 0#64, _, decodeEncode _ rfl, exec_mvol _ _ s, masterVolume_volumeOperand_near x⟩

end Sys2Proof.Machine
end
